-- ==== Sys2Proof/Word.lean ====
section
/-! DEFINITION. The word types of the BMP280 compensation engine (rules R8, R9, R90). -/

namespace Sys2Proof

/-- A sensor register's content, or one byte on the bus (`u8` of rule R9). -/
abbrev Byte := BitVec 8

/-- A command word as it stands on the command port: 64 bits, bit 0 least significant (R8, R90). -/
abbrev CmdWord := BitVec 64

/-- The 64 bits of an IEEE 754 binary64 value (`f64` of rule R10). -/
abbrev F64 := BitVec 64

end Sys2Proof
end

