-- ==== Sys2Proof/Config.lean ====
section
/-! DEFINITION. The parameters of rule R6 and the model's free values.
An `opaque` constant has no body: nothing in Lean can evaluate it, so a theorem about the model holds for
every value of it. -/

namespace Sys2Proof

/-- The three compensation datapaths of rule R3. -/
inductive Strategy where
  | a
  | b
  | c
  deriving DecidableEq, Repr

/-- A value of the parameter `STRATEGIES_PRESENT` (R6): which datapaths are built in. -/
structure StrategySet where
  a : Bool
  b : Bool
  c : Bool
  deriving DecidableEq, Repr

/-- The default of `STRATEGIES_PRESENT`: all three (R6, 92_eei_decisions.md D2). -/
def StrategySet.all : StrategySet := ⟨true, true, true⟩

/-- Whether a strategy is built in. -/
def StrategySet.has (p : StrategySet) : Strategy → Bool
  | .a => p.a
  | .b => p.b
  | .c => p.c

/-- "any non-empty subset allowed" (R6). -/
def StrategySet.nonEmpty (p : StrategySet) : Bool := p.a || p.b || p.c

/-- The block registers a host may read (R42, R81), by name. Their numbering is the OPEN parameter
`HOST_REG_MAP`. DEDUCED (log entry 14): `BUS_TRACE` (R41) is not among the names, because it is the model's
observation of the bus (R232). -/
inductive HostReg where
  | phase | resetSeen
  | digT1 | digT2 | digT3 | digP1 | digP2 | digP3 | digP4 | digP5 | digP6 | digP7 | digP8 | digP9
  | osT | osP | mode | odr | filter | spi3w
  | tFine | tFineValid | tFineSrc
  | rawP | rawT
  | statusByte | statMeasuring | statImUpdate
  | chipId
  | encConfig | encCtrlMeas | decFields
  | outTI32 | outPU32 | outTF64 | outPF64 | outTSrc | outPSrc
  | fault | faultCmd
  deriving DecidableEq, Repr

/-- FREE VALUE (R63; 93_implementation_defined.md U7). The byte the sensor-over-bus agent answers as the
`k`-th byte clocked in since the model's counter `State.draws` was 0, where the state lists no answer for it
(`State.answers`). The spec puts it under no law. Log entry 4. -/
opaque Config.freeByte : Nat → BitVec 8

/-- FREE VALUE. What `trunc_i32` gives for NaN, an infinity or a value outside `i32`. The spec states no
result there and says that it does not occur (R175, R194). Log entry 7. -/
opaque Config.truncOutOfRange : BitVec 64 → BitVec 32

/-- FREE VALUE. The sign (bit 51) and payload (bits 50:0) of the quiet NaN that an invalid binary64
operation gives; IEEE 754 leaves both open and no command reaches one. Log entry 6. -/
opaque Config.nanTail : BitVec 64 → BitVec 64 → BitVec 52

/-- OPEN parameter `EXPECTED_CHIP_ID` (R6): the host compares with it, the block never does (R36, R149). -/
opaque Config.expectedChipId : BitVec 8

/-- OPEN parameter `BUS_TIMEOUT` (R6): no rule of the block depends on it (R63). -/
opaque Config.busTimeout : Nat

/-- OPEN parameter `HOST_REG_MAP` (R6): the number a host gives a register; it changes no rule. -/
opaque Config.hostRegMap : HostReg → Nat

end Sys2Proof
end

