-- ==== Sys2Proof/Machine/Float64.lean ====
section
/-! DEFINITION. IEEE 754 binary64 arithmetic on bit patterns, round to nearest with ties to even, each operation
rounded once (R10, R175). An operation computes the exact value as a fraction times a power of two, and one
function rounds it. -/

namespace Sys2Proof.Machine

/-- What a binary64 bit pattern stands for. `fin neg m e` is the number (-1)^neg · m · 2^e. -/
inductive FloatVal where
  | nan
  | inf (neg : Bool)
  | fin (neg : Bool) (m : Nat) (e : Int)
  deriving DecidableEq, Repr

/-- Bit 63 is the sign, bits 62:52 the biased exponent, bits 51:0 the fraction; exponent 0 is zero or a
subnormal ("Subnormals are kept", R175), and exponent 2047 an infinity or NaN. -/
def f64Unpack (x : F64) : FloatVal :=
  let neg := x.getLsbD 63
  let expo := (x.extractLsb' 52 11).toNat
  let frac := (x.extractLsb' 0 52).toNat
  if expo = 2047 then
    if frac = 0 then .inf neg else .nan
  else if expo = 0 then .fin neg frac (-1074)
  else .fin neg (2 ^ 52 + frac) ((expo : Int) - 1075)

/-- A sign and the lower 63 bits as a bit pattern. -/
def f64OfMagnitude (neg : Bool) (bits : Nat) : F64 :=
  BitVec.ofNat 64 ((if neg then 2 ^ 63 else 0) + bits)

/-- The lower 63 bits of an infinity. -/
def f64InfBits : Nat := 2047 * 2 ^ 52

/-- The zero of a sign. -/
def f64Zero (neg : Bool) : F64 := f64OfMagnitude neg 0

/-- The infinity of a sign. -/
def f64Inf (neg : Bool) : F64 := f64OfMagnitude neg f64InfBits

/-- The quiet NaN that an invalid operation on `x` and `y` gives; its sign and payload are a free value. -/
def f64NaN (x y : F64) : F64 :=
  let t := Config.nanTail x y
  t.extractLsb' 51 1 ++ 0xFFF#12 ++ t.extractLsb' 0 51

/-- The integer nearest to `n / d`, the even one of two at the same distance. -/
def nearestEven (n d : Nat) : Nat :=
  let q := n / d
  let r := n % d
  if 2 * r < d then q
  else if d < 2 * r then q + 1
  else q + q % 2

/-- The `k` with 2^k ≤ n/d < 2^(k+1), for positive `n` and `d`. -/
def floorLog2 (n d : Nat) : Int :=
  let k : Int := (n.log2 : Int) - (d.log2 : Int)
  if d * 2 ^ k.toNat ≤ n * 2 ^ (-k).toNat then k else k - 1

/-- The exponent of the last place of a result of magnitude n/d · 2^e: 53 significant bits, or fewer where the
result is subnormal. -/
def lastPlace (n d : Nat) (e : Int) : Int := max (floorLog2 n d + e - 52) (-1074)

/-- The lower 63 bits of the magnitude n/d · 2^e (d > 0) rounded to nearest even. A carry out of the fraction
runs into the exponent field, and a magnitude too large for the format gives infinity. -/
def roundMagnitude (n d : Nat) (e : Int) : Nat :=
  if n = 0 then 0
  else
    let q := lastPlace n d e
    let m := nearestEven (n * 2 ^ (e - q).toNat) (d * 2 ^ (q - e).toNat)
    min ((q + 1074).toNat * 2 ^ 52 + m) f64InfBits

/-- The number (-1)^neg · n/d · 2^e rounded to binary64. -/
def f64Round (neg : Bool) (n d : Nat) (e : Int) : F64 := f64OfMagnitude neg (roundMagnitude n d e)

/-- `f64(n)` of an integer (R10, R175). -/
def f64OfInt (n : Int) : F64 := f64Round (decide (n < 0)) n.natAbs 1 0

/-- The signed integer (-1)^neg · m. -/
def signedMant (neg : Bool) (m : Nat) : Int := if neg then -(m : Int) else m

/-- The exact sum of two finite numbers, rounded. A zero sum is +0 unless both operands are negative, as IEEE 754
has it for round to nearest. -/
def f64AddFin (na : Bool) (ma : Nat) (ea : Int) (nb : Bool) (mb : Nat) (eb : Int) : F64 :=
  let e := min ea eb
  let sum := signedMant na ma * 2 ^ (ea - e).toNat + signedMant nb mb * 2 ^ (eb - e).toNat
  if sum = 0 then f64Zero (na && nb) else f64Round (decide (sum < 0)) sum.natAbs 1 e

/-- `x + y` (R175). -/
def f64Add (x y : F64) : F64 :=
  match f64Unpack x, f64Unpack y with
  | .fin na ma ea, .fin nb mb eb => f64AddFin na ma ea nb mb eb
  | .inf na, .fin _ _ _ => f64Inf na
  | .fin _ _ _, .inf nb => f64Inf nb
  | .inf na, .inf nb => if na = nb then f64Inf na else f64NaN x y
  | .nan, _ => f64NaN x y
  | _, .nan => f64NaN x y

/-- `-x`: the sign bit inverted. -/
def f64Neg (x : F64) : F64 := x ^^^ 0x8000000000000000#64

/-- `x - y` (R175). -/
def f64Sub (x y : F64) : F64 := f64Add x (f64Neg y)

/-- `x * y` (R175). -/
def f64Mul (x y : F64) : F64 :=
  match f64Unpack x, f64Unpack y with
  | .fin na ma ea, .fin nb mb eb => f64Round (na != nb) (ma * mb) 1 (ea + eb)
  | .inf na, .fin nb mb _ => if mb = 0 then f64NaN x y else f64Inf (na != nb)
  | .fin na ma _, .inf nb => if ma = 0 then f64NaN x y else f64Inf (na != nb)
  | .inf na, .inf nb => f64Inf (na != nb)
  | .nan, _ => f64NaN x y
  | _, .nan => f64NaN x y

/-- `x / y` (R175). -/
def f64Div (x y : F64) : F64 :=
  match f64Unpack x, f64Unpack y with
  | .fin na ma ea, .fin nb mb eb =>
    if mb = 0 then (if ma = 0 then f64NaN x y else f64Inf (na != nb))
    else f64Round (na != nb) ma mb (ea - eb)
  | .inf na, .fin nb _ _ => f64Inf (na != nb)
  | .fin na _ _, .inf nb => f64Zero (na != nb)
  | .inf _, .inf _ => f64NaN x y
  | .nan, _ => f64NaN x y
  | _, .nan => f64NaN x y

/-- `x = 0.0`, true of +0.0 and -0.0 (R180). -/
def f64IsZero (x : F64) : Bool :=
  match f64Unpack x with
  | .fin _ m _ => decide (m = 0)
  | _ => false

/-- The integer part of (-1)^neg · m · 2^e, rounded toward zero. -/
def truncFin (neg : Bool) (m : Nat) (e : Int) : Int :=
  signedMant neg (m * 2 ^ e.toNat / 2 ^ (-e).toNat)

/-- `trunc_i32(x)` (R10, R175): toward zero. R194 says that its argument is always finite and in range; elsewhere
the result is a free value. -/
def truncI32 (x : F64) : BitVec 32 :=
  match f64Unpack x with
  | .fin neg m e =>
    let v := truncFin neg m e
    if -2147483648 ≤ v ∧ v < 2147483648 then BitVec.ofInt 32 v else Config.truncOutOfRange x
  | _ => Config.truncOutOfRange x

end Sys2Proof.Machine
end

