-- ==== Sys2Proof/Syntax.lean ====
section
/-! DEFINITION. The command set: one constructor for each row of spec/opcode_table.json (R99). -/

namespace Sys2Proof

/-- The source's `DeviceConfiguration`: the six fields of format CF (R92), which are also the fields of the
configuration shadow (R26). Every value of every field is legal (R101). -/
structure ConfigFields where
  osT : BitVec 3
  osP : BitVec 3
  mode : BitVec 2
  odr : BitVec 3
  filter : BitVec 3
  spi3w : BitVec 1
  deriving DecidableEq, Repr

/-- The 18 commands of rule R99. -/
inductive Instr where
  /-- `reset`, RESET (R141), format N. -/
  | reset
  /-- `ldcal`, LOAD_CALIB (R142), format N. -/
  | loadCalib
  /-- `apply`, APPLY_CONFIG (R144), format CF. -/
  | applyConfig (f : ConfigFields)
  /-- `rdstat`, READ_STATUS (R146), format N. -/
  | readStatus
  /-- `rdraw`, READ_RAW (R147), format N. -/
  | readRaw
  /-- `rdid`, READ_CHIP_ID (R149), format N. -/
  | readChipId
  /-- `enccfg`, ENCODE_CONFIG (R121), format CF. -/
  | encodeConfig (f : ConfigFields)
  /-- `deccfg`, DECODE_CONFIG (R122), format CB: a `config` byte and a `ctrl_meas` byte. -/
  | decodeConfig (cfg ctrl : BitVec 8)
  /-- `decstat`, DECODE_STATUS (R123), format SB. -/
  | decodeStatus (sb : BitVec 8)
  /-- `compt.a`, COMP_T.A (R182), format AT. -/
  | compTA (adcT : BitVec 20)
  /-- `compt.b`, COMP_T.B (R183), format AT. -/
  | compTB (adcT : BitVec 20)
  /-- `compt.c`, COMP_T.C (R184), format AT. -/
  | compTC (adcT : BitVec 20)
  /-- `compp.a`, COMP_P.A (R185), format AP. -/
  | compPA (adcP : BitVec 20)
  /-- `compp.b`, COMP_P.B (R186), format AP. -/
  | compPB (adcP : BitVec 20)
  /-- `compp.c`, COMP_P.C (R187), format AP. -/
  | compPC (adcP : BitVec 20)
  /-- `comptp.a`, COMP_TP.A (R188), format ATP. -/
  | compTPA (adcT adcP : BitVec 20)
  /-- `comptp.b`, COMP_TP.B (R189), format ATP. -/
  | compTPB (adcT adcP : BitVec 20)
  /-- `comptp.c`, COMP_TP.C (R190), format ATP. -/
  | compTPC (adcT adcP : BitVec 20)
  deriving DecidableEq, Repr

end Sys2Proof
end

