-- ==== Sys2Proof/WellFormed.lean ====
section
/-! DEFINITION. Which commands a build has. The operand fields need no check: their types admit exactly the
values the formats admit (R92–R97, R101). The one check is that a compensation command's strategy is in
`STRATEGIES_PRESENT` (R100, R222). -/

namespace Sys2Proof

/-- The strategy a compensation command selects (R98); the other commands select none. -/
def Instr.strategy : Instr → Option Strategy
  | .reset | .loadCalib | .applyConfig _ | .readStatus | .readRaw | .readChipId => none
  | .encodeConfig _ | .decodeConfig _ _ | .decodeStatus _ => none
  | .compTA _ | .compPA _ | .compTPA _ _ => some .a
  | .compTB _ | .compPB _ | .compTPB _ _ => some .b
  | .compTC _ | .compPC _ | .compTPC _ _ => some .c

/-- The command exists in a build with these strategies (R100, R222). -/
def Instr.wellFormed (p : StrategySet) (i : Instr) : Bool :=
  match i.strategy with
  | none => true
  | some st => p.has st

end Sys2Proof
end

