-- ==== Sys2Proof/Decode.lean ====
section
/-! DEFINITION. Decoding, total on every 64-bit word (R100), the encoder, the opcode table as mask and match
rows, and the pseudo-instructions (R105). -/

namespace Sys2Proof

/-- The operand formats of rules R91–R97. -/
inductive Format where
  | n
  | cf
  | cb
  | sb
  | aT
  | aP
  | aTP
  deriving DecidableEq, Repr

/-- Why a word selects no command: the three conditions of rule R222. -/
inductive Reject where
  /-- Its `OPC` is not in rule R99. -/
  | unknownOpcode
  /-- A compensation opcode whose strategy is not in `STRATEGIES_PRESENT`. -/
  | absentStrategy
  /-- A reserved operand bit of its format is 1. -/
  | reservedBit
  deriving DecidableEq, Repr

/-- `OPC = w[63:56]` (R90). -/
def opcodeOf (w : CmdWord) : BitVec 8 := w.extractLsb' 56 8

/-- `adc_T = w[19:0]` (R95, R97, R102). -/
def adcTOf (w : CmdWord) : BitVec 20 := w.extractLsb' 0 20

/-- `adc_P = w[39:20]` (R96, R97, R102). -/
def adcPOf (w : CmdWord) : BitVec 20 := w.extractLsb' 20 20

/-- The fields of a 15-bit value laid out as format CF (R92). -/
def fieldsOfBits (v : BitVec 15) : ConfigFields where
  osT := v.extractLsb' 0 3
  osP := v.extractLsb' 3 3
  mode := v.extractLsb' 6 2
  odr := v.extractLsb' 8 3
  filter := v.extractLsb' 11 3
  spi3w := v.extractLsb' 14 1

/-- The 15-bit layout of format CF (R92), which is also that of `DEC_FIELDS` (R37). -/
def bitsOfFields (f : ConfigFields) : BitVec 15 :=
  f.spi3w ++ f.filter ++ f.odr ++ f.mode ++ f.osP ++ f.osT

/-- The format of each command (R99). -/
def Instr.format : Instr → Format
  | .reset | .loadCalib | .readStatus | .readRaw | .readChipId => .n
  | .applyConfig _ | .encodeConfig _ => .cf
  | .decodeConfig _ _ => .cb
  | .decodeStatus _ => .sb
  | .compTA _ | .compTB _ | .compTC _ => .aT
  | .compPA _ | .compPB _ | .compPC _ => .aP
  | .compTPA _ _ | .compTPB _ _ | .compTPC _ _ => .aTP

/-- The reserved operand bits of a format (R100). -/
def reservedMask : Format → CmdWord
  | .n => 0x00FFFFFFFFFFFFFF#64
  | .cf => 0x00FFFFFFFFFF8000#64
  | .cb => 0x00FFFFFFFFFF0000#64
  | .sb => 0x00FFFFFFFFFFFF00#64
  | .aT => 0x00FFFFFFFFF00000#64
  | .aP => 0x00FFFF00000FFFFF#64
  | .aTP => 0x00FFFF0000000000#64

/-- The command that the opcode and the operand bits name (R99, R102), before the checks of rule R100. -/
def candidate (w : CmdWord) : Option Instr :=
  match (opcodeOf w).toNat with
  | 0x01 => some .reset
  | 0x02 => some .loadCalib
  | 0x03 => some (.applyConfig (fieldsOfBits (w.extractLsb' 0 15)))
  | 0x04 => some .readStatus
  | 0x05 => some .readRaw
  | 0x06 => some .readChipId
  | 0x08 => some (.encodeConfig (fieldsOfBits (w.extractLsb' 0 15)))
  | 0x09 => some (.decodeConfig (w.extractLsb' 8 8) (w.extractLsb' 0 8))
  | 0x0A => some (.decodeStatus (w.extractLsb' 0 8))
  | 0x10 => some (.compTA (adcTOf w))
  | 0x11 => some (.compTB (adcTOf w))
  | 0x12 => some (.compTC (adcTOf w))
  | 0x14 => some (.compPA (adcPOf w))
  | 0x15 => some (.compPB (adcPOf w))
  | 0x16 => some (.compPC (adcPOf w))
  | 0x18 => some (.compTPA (adcTOf w) (adcPOf w))
  | 0x19 => some (.compTPB (adcTOf w) (adcPOf w))
  | 0x1A => some (.compTPC (adcTOf w) (adcPOf w))
  | _ => none

/-- `decode(w)` of rule R100 for a build with the strategies `p`. A word that is rejected is `ILLEGAL`; the
name says which condition of rule R222 it meets first in R100's order. -/
def decode (p : StrategySet) (w : CmdWord) : Except Reject Instr :=
  match candidate w with
  | none => .error .unknownOpcode
  | some i =>
    if i.wellFormed p = false then .error .absentStrategy
    else if w &&& reservedMask i.format ≠ 0#64 then .error .reservedBit
    else .ok i

/-- The opcode of each command (R99). -/
def Instr.opcode : Instr → BitVec 8
  | .reset => 0x01#8
  | .loadCalib => 0x02#8
  | .applyConfig _ => 0x03#8
  | .readStatus => 0x04#8
  | .readRaw => 0x05#8
  | .readChipId => 0x06#8
  | .encodeConfig _ => 0x08#8
  | .decodeConfig _ _ => 0x09#8
  | .decodeStatus _ => 0x0A#8
  | .compTA _ => 0x10#8
  | .compTB _ => 0x11#8
  | .compTC _ => 0x12#8
  | .compPA _ => 0x14#8
  | .compPB _ => 0x15#8
  | .compPC _ => 0x16#8
  | .compTPA _ _ => 0x18#8
  | .compTPB _ _ => 0x19#8
  | .compTPC _ _ => 0x1A#8

/-- The operand area `w[55:0]` of a command, its reserved bits 0 (R90–R97). -/
def Instr.operandArea : Instr → BitVec 56
  | .reset | .loadCalib | .readStatus | .readRaw | .readChipId => 0#56
  | .applyConfig f | .encodeConfig f => 0#41 ++ bitsOfFields f
  | .decodeConfig cfg ctrl => 0#40 ++ cfg ++ ctrl
  | .decodeStatus sb => 0#48 ++ sb
  | .compTA t | .compTB t | .compTC t => 0#36 ++ t
  | .compPA q | .compPB q | .compPC q => 0#16 ++ q ++ 0#20
  | .compTPA t q | .compTPB t q | .compTPC t q => 0#16 ++ q ++ t

/-- The command word of a command (R90): the opcode in bits 63:56 over its operand area. -/
def encode (i : Instr) : CmdWord := i.opcode ++ i.operandArea

/-- One row of the opcode table: a word selects the row's command exactly when `(w & mask) = match` (R100). -/
structure TableRow where
  opcode : BitVec 8
  mask : CmdWord
  matchBits : CmdWord
  deriving DecidableEq, Repr

/-- A row from its opcode and format: `mask = 0xFF00… | reserved_mask(fmt)`, `match = opc << 56` (R100). -/
def tableRow (opc : BitVec 8) (fmt : Format) : TableRow :=
  ⟨opc, 0xFF00000000000000#64 ||| reservedMask fmt, opc.setWidth 64 <<< 56⟩

/-- The complete opcode map of rule R99. -/
def tableRows : List TableRow :=
  [tableRow 0x01#8 .n, tableRow 0x02#8 .n, tableRow 0x03#8 .cf, tableRow 0x04#8 .n, tableRow 0x05#8 .n,
    tableRow 0x06#8 .n, tableRow 0x08#8 .cf, tableRow 0x09#8 .cb, tableRow 0x0A#8 .sb] ++
  [tableRow 0x10#8 .aT, tableRow 0x11#8 .aT, tableRow 0x12#8 .aT, tableRow 0x14#8 .aP, tableRow 0x15#8 .aP,
    tableRow 0x16#8 .aP, tableRow 0x18#8 .aTP, tableRow 0x19#8 .aTP, tableRow 0x1A#8 .aTP]

/-- The configuration of the pseudo-instruction `apply.default` (R105): oversampling ×16 on both channels,
normal mode, 62.5 ms standby, filter 16, 3-wire off. -/
def defaultConfig : ConfigFields := ⟨5#3, 5#3, 3#2, 1#3, 4#3, 0#1⟩

/-- `init` expands to `reset`, `ldcal`, `apply.default` (R105). -/
def initSequence : List Instr := [.reset, .loadCalib, .applyConfig defaultConfig]

/-- A command word given as a number of `nbits` bits; the bits above `nbits` are 0. -/
def wordOfBits (nbits w : Nat) : CmdWord := BitVec.ofNat 64 (w % 2 ^ nbits)

/-- The command the decoder reads from a word of the opcode table, in the default build (R6, R100). The word
is one 64-bit number and has no byte order (R90). -/
def decodeTableWord (nbits w : Nat) : Option Instr :=
  match decode StrategySet.all (wordOfBits nbits w) with
  | .ok i => some i
  | .error _ => none

end Sys2Proof
end

