-- ==== Sys2Proof/Machine/State.lean ====
section
/-! DEFINITION. The state of the block: every register of 10_state.md Part 1, the bus trace, and the four
inputs of a launch that the model holds as plain data (R6, R63, R81, R264). The sensor's registers
(10_state.md Part 2) belong to an external agent and are not held (R5, R7). -/

namespace Sys2Proof.Machine

/-- `PHASE` (R21), in the order UNINIT < CAL_LOADED < CONFIGURED < SAMPLING. -/
inductive Phase where
  | uninit
  | calLoaded
  | configured
  | sampling
  deriving DecidableEq, Repr

/-- A register whose reset value is "unspecified": it holds no value until a rule writes it (R42). The model
gives it a `value` at reset all the same (log entry 2), and `hasValue` says whether a rule has written it
since power-on, which is what a host read observes. -/
structure Reg (α : Type) where
  value : α
  hasValue : Bool
  deriving DecidableEq, Repr

/-- A register that a rule has written. -/
def Reg.of {α : Type} (v : α) : Reg α := ⟨v, true⟩

/-- The calibration store (R23): twelve 16-bit words. `DIG_T1` and `DIG_P1` are read as unsigned, the others
as two's complement (R24). -/
structure Calib where
  digT1 : BitVec 16
  digT2 : BitVec 16
  digT3 : BitVec 16
  digP1 : BitVec 16
  digP2 : BitVec 16
  digP3 : BitVec 16
  digP4 : BitVec 16
  digP5 : BitVec 16
  digP6 : BitVec 16
  digP7 : BitVec 16
  digP8 : BitVec 16
  digP9 : BitVec 16
  deriving DecidableEq, Repr

/-- One transaction on the bus port (R41, R61). -/
inductive BusEvent where
  /-- `Read(addr, n, bytes)`. -/
  | read (addr : Byte) (n : Nat) (bytes : List Byte)
  /-- `Write(addr, byte)`. -/
  | write (addr v : Byte)
  deriving DecidableEq, Repr

/-- What the host does to the block (R81). A register read is not listed: it changes nothing
(`hostRead`). -/
inductive HostMove where
  /-- The host issues a command word. -/
  | command (w : CmdWord)
  /-- The host sends the power-on reset signal (R250). -/
  | powerOn
  deriving DecidableEq, Repr

/-- The fault causes of rule R220. Neither stops the machine: the fault procedure (R224) is a next state. -/
inductive FaultCause where
  | precond
  | illegal
  deriving DecidableEq, Repr

/-- The state of the block, and the inputs of its launch. -/
structure State where
  /-- `PHASE` (R21). -/
  phase : Phase
  /-- `RESET_SEEN` (R22). -/
  resetSeen : Bool
  /-- `DIG_T1`..`DIG_P9` (R23), which only LOAD_CALIB writes, all at once. -/
  cal : Reg Calib
  /-- `OS_T`, `OS_P`, `MODE`, `ODR`, `FILTER`, `SPI3W` (R26), which only APPLY_CONFIG writes, all at once. -/
  shadow : Reg ConfigFields
  /-- `T_FINE` (R33), an `i32`. -/
  tFine : Reg (BitVec 32)
  /-- `TFINE_VALID` (R33). -/
  tFineValid : Bool
  /-- `TFINE_SRC` (R33): 0 none, 1 A, 2 B, 3 C. -/
  tFineSrc : BitVec 2
  /-- `RAW_P` (R34). -/
  rawP : Reg (BitVec 20)
  /-- `RAW_T` (R34). -/
  rawT : Reg (BitVec 20)
  /-- `STATUS_BYTE` (R35). -/
  statusByte : Reg Byte
  /-- `STAT_MEASURING` (R35). -/
  statMeasuring : Reg Bool
  /-- `STAT_IM_UPDATE` (R35). -/
  statImUpdate : Reg Bool
  /-- `CHIP_ID` (R36). -/
  chipId : Reg Byte
  /-- `ENC_CONFIG` (R37). -/
  encConfig : Reg Byte
  /-- `ENC_CTRL_MEAS` (R37). -/
  encCtrlMeas : Reg Byte
  /-- `DEC_FIELDS` (R37), in the layout of format CF. -/
  decFields : Reg (BitVec 15)
  /-- `OUT_T_I32` (R38). -/
  outTI32 : Reg (BitVec 32)
  /-- `OUT_P_U32` (R38). -/
  outPU32 : Reg (BitVec 32)
  /-- `OUT_T_F64` (R38). -/
  outTF64 : Reg F64
  /-- `OUT_P_F64` (R38). -/
  outPF64 : Reg F64
  /-- `OUT_T_SRC` (R38): 0 none, 1 A, 2 B, 3 C. -/
  outTSrc : BitVec 2
  /-- `OUT_P_SRC` (R38): 0 none, 1 A, 2 B, 3 C. -/
  outPSrc : BitVec 2
  /-- `FAULT` (R39), sticky: bit 0 PRECOND, bit 1 ILLEGAL. -/
  fault : BitVec 2
  /-- `FAULT_CMD` (R39): the command word of the first fault since power-on. -/
  faultCmd : Reg CmdWord
  /-- `BUS_TRACE` (R41), oldest transaction first. -/
  busTrace : List BusEvent
  /-- The parameter `STRATEGIES_PRESENT` (R6). No step changes it (log entry 3). -/
  strategies : StrategySet
  /-- What the host will do next, first move first: `ws` of rule R264 (log entry 1). -/
  hostQueue : List HostMove
  /-- The bytes the sensor-over-bus agent will answer next, first byte first: `oracle` of rules R63 and
  R264. Where the list runs out, the answer is a free value (log entry 4). -/
  answers : List Byte
  /-- THE MODEL'S OWN counter, no register of the block: how many bytes have been clocked in. It only
  makes each free answer a fresh one (log entry 4). -/
  draws : Nat
  deriving DecidableEq, Repr

/-- Why the machine stops: never. The block's own faults (R220) are recorded in `FAULT` and the block goes on (R224,
R227), no bus transaction fails visibly (R63) and every register holds a value at reset, so no rule stops the machine
and this type has no constructor. What the host sees of a register without a value is no stop either
(`ObservationError`). -/
inductive Fault where
  deriving DecidableEq, Repr

/-- Why the model gives an instruction no meaning. -/
inductive Refusal where
  /-- For an arm of `exec` that has no meaning yet; safe. Every arm has its meaning, so nothing raises it. -/
  | notModelled (mnemonic : String)
  deriving DecidableEq, Repr

/-- A register that no rule has written: rule R43 gives it no value, and the model's is `v`. -/
def Reg.unwritten {α : Type} (v : α) : Reg α := ⟨v, false⟩

/-- The block after power-on (R43, R250), in the default build, with nothing queued by the host and no
answer fixed. DESIGN CHOICE (log entry 2): a register to which R43 gives no value holds 0. -/
def State.reset : State where
  phase := .uninit
  resetSeen := false
  cal := .unwritten ⟨0, 0, 0, 0, 0, 0, 0, 0, 0, 0, 0, 0⟩
  shadow := .unwritten ⟨0, 0, 0, 0, 0, 0⟩
  tFine := .unwritten 0
  tFineValid := false
  tFineSrc := 0
  rawP := .unwritten 0
  rawT := .unwritten 0
  statusByte := .unwritten 0
  statMeasuring := .unwritten false
  statImUpdate := .unwritten false
  chipId := .unwritten 0
  encConfig := .unwritten 0
  encCtrlMeas := .unwritten 0
  decFields := .unwritten 0
  outTI32 := .unwritten 0
  outPU32 := .unwritten 0
  outTF64 := .unwritten 0
  outPF64 := .unwritten 0
  outTSrc := 0
  outPSrc := 0
  fault := 0
  faultCmd := .unwritten 0
  busTrace := []
  strategies := StrategySet.all
  hostQueue := []
  answers := []
  draws := 0

end Sys2Proof.Machine
end

