-- ==== Sys2Proof/Machine/Operands.lean ====
section
/-! DEFINITION. How the block forms values from bytes and fields: the register map (R44), the calibration words
(R143), the raw samples (R148), the configuration bytes (R121, R122) and the integer conversions (R174). -/

namespace Sys2Proof.Machine

/-- `chip_id` (R44, R45). -/
def addrChipId : Byte := 0xD0#8

/-- `reset` (R44, R46). -/
def addrReset : Byte := 0xE0#8

/-- `status` (R44, R47). -/
def addrStatus : Byte := 0xF3#8

/-- `ctrl_meas` (R44, R48). -/
def addrCtrlMeas : Byte := 0xF4#8

/-- `config` (R44, R49). -/
def addrConfig : Byte := 0xF5#8

/-- `press_msb`, the first of the six raw-data bytes (R44, R50, R51). -/
def addrRaw : Byte := 0xF7#8

/-- The calibration block (R44, R52). -/
def addrCalib : Byte := 0x88#8

/-- The only value the block writes to `reset` (R46, R141). -/
def resetCode : Byte := 0xB6#8

/-- A calibration word from its bytes, the lower address first: `{hi, lo}` (R66, R143). -/
def calibWord (lo hi : Byte) : BitVec 16 := hi ++ lo

/-- The calibration store from the 24 bytes of the calibration block, byte `k` at 0x88 + k (R23, R142). -/
def calibOfBytes (b : Nat → Byte) : Calib where
  digT1 := calibWord (b 0) (b 1)
  digT2 := calibWord (b 2) (b 3)
  digT3 := calibWord (b 4) (b 5)
  digP1 := calibWord (b 6) (b 7)
  digP2 := calibWord (b 8) (b 9)
  digP3 := calibWord (b 10) (b 11)
  digP4 := calibWord (b 12) (b 13)
  digP5 := calibWord (b 14) (b 15)
  digP6 := calibWord (b 16) (b 17)
  digP7 := calibWord (b 18) (b 19)
  digP8 := calibWord (b 20) (b 21)
  digP9 := calibWord (b 22) (b 23)

/-- `assemble20(msb, lsb, xlsb) = {msb, lsb, xlsb[7:4]}` (R148). -/
def assemble20 (msb lsb xlsb : Byte) : BitVec 20 := msb ++ lsb ++ xlsb.extractLsb' 4 4

/-- The `config` byte `odr<<5 | filter<<2 | spi3w` (R49, R121). -/
def packConfig (f : ConfigFields) : Byte :=
  (f.odr.setWidth 8 <<< 5) ||| (f.filter.setWidth 8 <<< 2) ||| f.spi3w.setWidth 8

/-- The `ctrl_meas` byte `os_t<<5 | os_p<<2 | mode` (R48, R121). -/
def packCtrlMeas (f : ConfigFields) : Byte :=
  (f.osT.setWidth 8 <<< 5) ||| (f.osP.setWidth 8 <<< 2) ||| f.mode.setWidth 8

/-- The fields in a `config` byte and a `ctrl_meas` byte; `cfg[1]` is ignored (R122). -/
def unpackConfig (cfg ctrl : Byte) : ConfigFields where
  osT := ctrl.extractLsb' 5 3
  osP := ctrl.extractLsb' 2 3
  mode := ctrl.extractLsb' 0 2
  odr := cfg.extractLsb' 5 3
  filter := cfg.extractLsb' 2 3
  spi3w := cfg.extractLsb' 0 1

/-- `i32(adc)` of a `u20` (R174): the value is kept. -/
def adc32 (x : BitVec 20) : BitVec 32 := x.setWidth 32

/-- `i32` of an unsigned calibration word (R24, R174). -/
def unsigned32 (x : BitVec 16) : BitVec 32 := x.setWidth 32

/-- `i32` of a signed calibration word (R24, R174). -/
def signed32 (x : BitVec 16) : BitVec 32 := x.signExtend 32

/-- `i64` of an unsigned calibration word (R24, R174). -/
def unsigned64 (x : BitVec 16) : BitVec 64 := x.setWidth 64

/-- `i64` of a signed calibration word (R24, R174). -/
def signed64 (x : BitVec 16) : BitVec 64 := x.signExtend 64

/-- `i64` of an `i32` sign-extends (R174). -/
def widen64 (x : BitVec 32) : BitVec 64 := x.signExtend 64

/-! ### The words of the store, by name and sign (R23, R24) -/

/-- The twelve words of the calibration store (R23). -/
inductive CalibWord where
  | t1 | t2 | t3
  | p1 | p2 | p3 | p4 | p5 | p6 | p7 | p8 | p9
  deriving DecidableEq, Repr

/-- The bits of a word of the store (R23). -/
def calibBits (c : Calib) : CalibWord → BitVec 16
  | .t1 => c.digT1
  | .t2 => c.digT2
  | .t3 => c.digT3
  | .p1 => c.digP1
  | .p2 => c.digP2
  | .p3 => c.digP3
  | .p4 => c.digP4
  | .p5 => c.digP5
  | .p6 => c.digP6
  | .p7 => c.digP7
  | .p8 => c.digP8
  | .p9 => c.digP9

/-- "`dig_p1`/`dig_t1` must be treated as unsigned; all others signed" (R24, 90_conflicts.md C1). -/
def calibIsUnsigned : CalibWord → Bool
  | .t1 | .p1 => true
  | .t2 | .t3 | .p2 | .p3 | .p4 | .p5 | .p6 | .p7 | .p8 | .p9 => false

/-- `i32(w)` of a word of the store, by its sign (R24, R174). -/
def calib32 (c : Calib) (w : CalibWord) : BitVec 32 :=
  match calibIsUnsigned w with
  | true => unsigned32 (calibBits c w)
  | false => signed32 (calibBits c w)

/-- `i64(w)` of a word of the store, by its sign (R24, R174). -/
def calib64 (c : Calib) (w : CalibWord) : BitVec 64 :=
  match calibIsUnsigned w with
  | true => unsigned64 (calibBits c w)
  | false => signed64 (calibBits c w)

/-- The number a word of the store stands for (R24). -/
def calibNumber (c : Calib) (w : CalibWord) : Int :=
  match calibIsUnsigned w with
  | true => (calibBits c w).toNat
  | false => (calibBits c w).toInt

end Sys2Proof.Machine
end

