-- ==== Sys2Proof/Machine/Compensation.lean ====
section
/-! DEFINITION. The five compensation functions (R176–R180), operation by operation. On `BitVec n` the operators
`+ - *` wrap modulo 2^n (R171), `<<<` discards the bits shifted out, `sshiftRight` is the arithmetic and `>>>` the
logical right shift (R172), `sdiv` truncates toward zero and wraps, and `/` is unsigned floor division (R173).
Lean binds the shift operators tighter than `+ - *`. -/

namespace Sys2Proof.Machine

/-- `temp_int(adc_T) -> (t_fine, T)`, the temperature stage of strategies A and C (R176). -/
def tempInt (c : Calib) (adcT : BitVec 20) : BitVec 32 × BitVec 32 :=
  let a := adc32 adcT
  let t1 := calib32 c .t1
  let t2 := calib32 c .t2
  let t3 := calib32 c .t3
  let var1 := ((a.sshiftRight 3 - t1 <<< 1) * t2).sshiftRight 11
  let d := a.sshiftRight 4 - t1
  let var2 := ((d * d).sshiftRight 12 * t3).sshiftRight 14
  let tFine := var1 + var2
  (tFine, (tFine * 5 + 128).sshiftRight 8)

/-- The pressure denominator of Strategy A: the second `v1` of rule R177. -/
def presADenominator (c : Calib) (tFine : BitVec 32) : BitVec 64 :=
  let v1 := widen64 tFine - 128000
  let w := (v1 * v1 * calib64 c .p3).sshiftRight 8 + (v1 * calib64 c .p2) <<< 12
  (((1#64 <<< 47) + w) * calib64 c .p1).sshiftRight 33

/-- `pres_a(adc_P, t_fine)`, the pressure stage of Strategy A (R177, R191). -/
def presA (c : Calib) (adcP : BitVec 20) (tFine : BitVec 32) : BitVec 32 :=
  let v1 := widen64 tFine - 128000
  let v2 := v1 * v1 * calib64 c .p6
  let v2 := v2 + (v1 * calib64 c .p5) <<< 17
  let v2 := v2 + calib64 c .p4 <<< 35
  let v1 := presADenominator c tFine
  if v1 = 0 then 0
  else
    let p := widen64 (1048576 - adc32 adcP)
    let p := ((p <<< 31 - v2) * 3125).sdiv v1
    let v1 := (calib64 c .p9 * p.sshiftRight 13 * p.sshiftRight 13).sshiftRight 25
    let v2 := (calib64 c .p8 * p).sshiftRight 19
    let p := (p + v1 + v2).sshiftRight 8 + calib64 c .p7 <<< 4
    p.setWidth 32

/-- The pressure denominator of Strategy C: the last `v1` of rule R178. -/
def presCDenominator (c : Calib) (tFine : BitVec 32) : BitVec 32 :=
  let v1 := tFine.sshiftRight 1 - 64000
  let q := v1.sshiftRight 2 * v1.sshiftRight 2
  let w := ((calib32 c .p3 * q.sshiftRight 13).sshiftRight 3
    + (calib32 c .p2 * v1).sshiftRight 1).sshiftRight 18
  ((32768 + w) * calib32 c .p1).sshiftRight 15

/-- The scaled numerator of Strategy C: the first `p` of rule R178, a `u32`. -/
def presCNumerator (c : Calib) (adcP : BitVec 20) (tFine : BitVec 32) : BitVec 32 :=
  let v1 := tFine.sshiftRight 1 - 64000
  let q := v1.sshiftRight 2 * v1.sshiftRight 2
  let v2 := q.sshiftRight 11 * calib32 c .p6
  let v2 := v2 + (v1 * calib32 c .p5) <<< 1
  let v2 := v2.sshiftRight 2 + calib32 c .p4 <<< 16
  ((1048576 - adc32 adcP) - v2.sshiftRight 12) * 3125

/-- `pres_c(adc_P, t_fine)`, the pressure stage of Strategy C (R178, R191, 90_conflicts.md C3): double first below
0x80000000, divide first at or above it. -/
def presC (c : Calib) (adcP : BitVec 20) (tFine : BitVec 32) : BitVec 32 :=
  let v1 := presCDenominator c tFine
  if v1 = 0 then 0
  else
    let p := presCNumerator c adcP tFine
    let p := if p.ult 0x80000000#32 then (p <<< 1) / v1 else (p / v1) * 2
    let w1 := (calib32 c .p9 * ((p >>> 3) * (p >>> 3)) >>> 13).sshiftRight 12
    let w2 := ((p >>> 2) * calib32 c .p8).sshiftRight 13
    p + (w1 + w2 + calib32 c .p7).sshiftRight 4

/-- `f64(w)` of a word of the store, by its sign (R24, R174). -/
def calibF64 (c : Calib) (w : CalibWord) : F64 := f64OfInt (calibNumber c w)

/-- `var1` of `temp_f` (R179). -/
def tempFVar1 (c : Calib) (adcT : BitVec 20) : F64 :=
  let a := f64OfInt adcT.toNat
  f64Mul (f64Sub (f64Div a (f64OfInt 16384)) (f64Div (calibF64 c .t1) (f64OfInt 1024)))
    (calibF64 c .t2)

/-- `var2` of `temp_f` (R179). -/
def tempFVar2 (c : Calib) (adcT : BitVec 20) : F64 :=
  let a := f64OfInt adcT.toNat
  let d := f64Sub (f64Div a (f64OfInt 131072)) (f64Div (calibF64 c .t1) (f64OfInt 8192))
  f64Mul (f64Mul d d) (calibF64 c .t3)

/-- `var1 + var2` of `temp_f`, computed once (R179). -/
def tempFSum (c : Calib) (adcT : BitVec 20) : F64 := f64Add (tempFVar1 c adcT) (tempFVar2 c adcT)

/-- `temp_f(adc_T) -> (t_fine, T)`, the temperature stage of Strategy B (R179). -/
def tempF (c : Calib) (adcT : BitVec 20) : BitVec 32 × F64 :=
  let sum := tempFSum c adcT
  (truncI32 sum, f64Div sum (f64OfInt 5120))

/-- The first `var1` of `pres_f` (R180). -/
def presFBase (tFine : BitVec 32) : F64 :=
  f64Sub (f64Div (f64OfInt tFine.toInt) (f64OfInt 2)) (f64OfInt 64000)

/-- The pressure denominator of Strategy B: the third `var1` of rule R180. -/
def presFDenominator (c : Calib) (tFine : BitVec 32) : F64 :=
  let var1 := presFBase tFine
  let var1 := f64Div
    (f64Add (f64Div (f64Mul (f64Mul (calibF64 c .p3) var1) var1) (f64OfInt 524288))
      (f64Mul (calibF64 c .p2) var1))
    (f64OfInt 524288)
  f64Mul (f64Add (f64OfInt 1) (f64Div var1 (f64OfInt 32768))) (calibF64 c .p1)

/-- `pres_f(adc_P, t_fine)`, the pressure stage of Strategy B, from the integer `t_fine` (R180, R191). -/
def presF (c : Calib) (adcP : BitVec 20) (tFine : BitVec 32) : F64 :=
  let var1 := presFBase tFine
  let var2 := f64Div (f64Mul (f64Mul var1 var1) (calibF64 c .p6)) (f64OfInt 32768)
  let var2 := f64Add var2 (f64Mul (f64Mul var1 (calibF64 c .p5)) (f64OfInt 2))
  let var2 := f64Add (f64Div var2 (f64OfInt 4)) (f64Mul (calibF64 c .p4) (f64OfInt 65536))
  let var1 := presFDenominator c tFine
  if f64IsZero var1 then f64Zero false
  else
    let p := f64Sub (f64OfInt 1048576) (f64OfInt adcP.toNat)
    let p := f64Div (f64Mul (f64Sub p (f64Div var2 (f64OfInt 4096))) (f64OfInt 6250)) var1
    let var1 := f64Div (f64Mul (f64Mul (calibF64 c .p9) p) p) (f64OfInt 2147483648)
    let var2 := f64Div (f64Mul p (calibF64 c .p8)) (f64OfInt 32768)
    f64Add p (f64Div (f64Add (f64Add var1 var2) (calibF64 c .p7)) (f64OfInt 16))

end Sys2Proof.Machine
end

