-- ==== Sys2Proof/Machine/Flags.lean ====
section
/-! DEFINITION. Every flag, phase and tag computation of the spec. The block has no condition codes and no
arithmetic flags (R40). -/

namespace Sys2Proof.Machine

/-- The code of a phase in `PHASE` (R21). -/
def Phase.code : Phase → BitVec 2
  | .uninit => 0
  | .calLoaded => 1
  | .configured => 2
  | .sampling => 3

/-- `p ≥ q` in the order of rule R21. -/
def Phase.atLeast (p q : Phase) : Bool := decide (q.code ≤ p.code)

/-- The tag of a strategy in `TFINE_SRC`, `OUT_T_SRC` and `OUT_P_SRC` (R33, R38): 1 = A, 2 = B, 3 = C. -/
def strategyTag : Strategy → BitVec 2
  | .a => 1
  | .b => 2
  | .c => 3

/-- The bit of a fault cause in `FAULT` (R39, R220). -/
def faultBit : FaultCause → BitVec 2
  | .precond => 0b01
  | .illegal => 0b10

/-- `measuring` is bit 3 of a status byte (R47, R123). -/
def statusMeasuring (sb : Byte) : Bool := sb.getLsbD 3

/-- `im_update` is bit 0 of a status byte (R47, R123). -/
def statusImUpdate (sb : Byte) : Bool := sb.getLsbD 0

/-- The precondition of LOAD_CALIB (R140, R221): `PHASE = UNINIT` and `RESET_SEEN = 1`. -/
def canLoadCalib (s : State) : Bool := decide (s.phase = .uninit) && s.resetSeen

/-- The precondition of APPLY_CONFIG, COMP_T and COMP_TP (R140, R221): `PHASE ≥ CAL_LOADED`. -/
def calReady (s : State) : Bool := s.phase.atLeast .calLoaded

/-- The precondition of READ_RAW (R140, R221): `PHASE ≥ CONFIGURED`. -/
def rawReady (s : State) : Bool := s.phase.atLeast .configured

/-- The precondition of COMP_P (R140, R221): `PHASE ≥ CAL_LOADED` and `TFINE_VALID = 1`. -/
def pressureReady (s : State) : Bool := s.phase.atLeast .calLoaded && s.tFineValid

/-- `PHASE` after APPLY_CONFIG (R140, R144): CONFIGURED if it was CAL_LOADED, else unchanged. -/
def phaseAfterApply : Phase → Phase
  | .uninit => .uninit
  | .calLoaded => .configured
  | .configured => .configured
  | .sampling => .sampling

/-- `PHASE` after READ_RAW (R140, R147): SAMPLING if it was CONFIGURED, else unchanged. -/
def phaseAfterRaw : Phase → Phase
  | .uninit => .uninit
  | .calLoaded => .calLoaded
  | .configured => .sampling
  | .sampling => .sampling

end Sys2Proof.Machine
end

