-- ==== Sys2Proof/Machine/Ops.lean ====
section
/-! DEFINITION. The named operations over the state: the bus port (R61–R65), the fault procedure (R224), the
checked commands, the power-on reset (R250) and the command port (R60, R81). -/

namespace Sys2Proof.Machine

/-- The byte `k` places ahead in what the sensor-over-bus agent answers: the listed one, or a free value
where none is listed (R63). An all-ones answer is how a failed read looks. -/
def answerByte (s : State) (k : Nat) : Byte := (s.answers[k]?).getD (Config.freeByte (s.draws + k))

/-- The `n` bytes that the next read of `n` bytes brings (R64). -/
def answerBytes (s : State) (n : Nat) : List Byte := (List.range n).map (answerByte s)

/-- `MemRead(addr, n)` (R64): the transaction is recorded and its `n` answer bytes are used up. The bytes
themselves are `answerByte s 0` to `answerByte s (n - 1)`. -/
def busRead (addr : Byte) (n : Nat) (s : State) : State :=
  { s with
    busTrace := s.busTrace ++ [.read addr n (answerBytes s n)]
    answers := s.answers.drop n
    draws := s.draws + n }

/-- `MemWrite(addr, 1, v)` (R65). Whether the sensor takes the byte or the transport drops it, the block's
state is the same. -/
def busWrite (addr v : Byte) (s : State) : State :=
  { s with busTrace := s.busTrace ++ [.write addr v] }

/-- The bytes the block sends for a transaction (R62, R106): `addr | 0x80` for a read; `addr & 0x7F` and the
data byte for a write. -/
def wireOut : BusEvent → List Byte
  | .read addr _ _ => [addr ||| 0x80#8]
  | .write addr v => [addr &&& 0x7F#8, v]

/-- The fault procedure (R224) for cause `c` and command word `w`: `FAULT_CMD` keeps the first word, `FAULT[c]`
is set, and nothing else changes. The command ends and the block waits for the next one. -/
def raiseFault (c : FaultCause) (w : CmdWord) (s : State) : State :=
  { s with
    fault := s.fault ||| faultBit c
    faultCmd := if s.fault = 0 then .of w else s.faultCmd }

/-- A command with a precondition (R221): where it holds the command gives `t`; where it fails the command
raises `Fault(PRECOND)` and does nothing else (R140, R225). The word recorded is the command's only word. -/
def checked (i : Instr) (ok : Bool) (s t : State) : Host.Outcome State Fault Refusal :=
  if ok then .next t else .next (raiseFault .precond (encode i) s)

/-- The power-on reset of the block (R250): every block register takes its value of rule R43, and `BUS_TRACE`
is empty. The build and the inputs still to come are not the block's and stay. -/
def powerOnReset (s : State) : State :=
  { State.reset with
    strategies := s.strategies
    hostQueue := s.hostQueue
    answers := s.answers
    draws := s.draws }

/-- The state with other host moves to come. -/
def setQueue (moves : List HostMove) (s : State) : State := { s with hostQueue := moves }

/-- The host's next move taken off the queue (R74, R81): the move, and the state without it. -/
def nextMove (s : State) : Option (HostMove × State) :=
  match s.hostQueue with
  | [] => none
  | m :: rest => some (m, setQueue rest s)

/-- The host issues a command word before its other moves (R81). -/
def issueFirst (w : CmdWord) (s : State) : State := setQueue (.command w :: s.hostQueue) s

end Sys2Proof.Machine
end

