-- ==== Sys2Proof/Machine/Compensate.lean ====
section
/-! DEFINITION. The nine compensation commands (R182–R190). None touches the bus or `PHASE`. -/

namespace Sys2Proof.Machine

/-- The temperature stage of strategy A or C, tagged `st` (R182, R184). -/
def writeTempInt (st : Strategy) (adcT : BitVec 20) (s : State) : State :=
  let r := tempInt s.cal.value adcT
  { s with
    tFine := .of r.1
    tFineValid := true
    tFineSrc := strategyTag st
    outTI32 := .of r.2
    outTSrc := strategyTag st }

/-- The temperature stage of strategy B (R183). -/
def writeTempF (adcT : BitVec 20) (s : State) : State :=
  let r := tempF s.cal.value adcT
  { s with
    tFine := .of r.1
    tFineValid := true
    tFineSrc := strategyTag .b
    outTF64 := .of r.2
    outTSrc := strategyTag .b }

/-- The pressure stage of strategy A on `T_FINE` (R185). -/
def writePresA (adcP : BitVec 20) (s : State) : State :=
  { s with outPU32 := .of (presA s.cal.value adcP s.tFine.value), outPSrc := strategyTag .a }

/-- The pressure stage of strategy B on `T_FINE` (R186). -/
def writePresF (adcP : BitVec 20) (s : State) : State :=
  { s with outPF64 := .of (presF s.cal.value adcP s.tFine.value), outPSrc := strategyTag .b }

/-- The pressure stage of strategy C on `T_FINE` (R187). -/
def writePresC (adcP : BitVec 20) (s : State) : State :=
  { s with outPU32 := .of (presC s.cal.value adcP s.tFine.value), outPSrc := strategyTag .c }

/-- COMP_T.A (R182). -/
def execCompTA (adcT : BitVec 20) (s : State) : Host.Outcome State Fault Refusal :=
  checked (.compTA adcT) (calReady s) s (writeTempInt .a adcT s)

/-- COMP_T.B (R183). -/
def execCompTB (adcT : BitVec 20) (s : State) : Host.Outcome State Fault Refusal :=
  checked (.compTB adcT) (calReady s) s (writeTempF adcT s)

/-- COMP_T.C (R184). -/
def execCompTC (adcT : BitVec 20) (s : State) : Host.Outcome State Fault Refusal :=
  checked (.compTC adcT) (calReady s) s (writeTempInt .c adcT s)

/-- COMP_P.A (R185). -/
def execCompPA (adcP : BitVec 20) (s : State) : Host.Outcome State Fault Refusal :=
  checked (.compPA adcP) (pressureReady s) s (writePresA adcP s)

/-- COMP_P.B (R186). -/
def execCompPB (adcP : BitVec 20) (s : State) : Host.Outcome State Fault Refusal :=
  checked (.compPB adcP) (pressureReady s) s (writePresF adcP s)

/-- COMP_P.C (R187). -/
def execCompPC (adcP : BitVec 20) (s : State) : Host.Outcome State Fault Refusal :=
  checked (.compPC adcP) (pressureReady s) s (writePresC adcP s)

/-- COMP_TP.A (R188): both stages in one step, the pressure from the `t_fine` just made. -/
def execCompTPA (adcT adcP : BitVec 20) (s : State) : Host.Outcome State Fault Refusal :=
  checked (.compTPA adcT adcP) (calReady s) s (writePresA adcP (writeTempInt .a adcT s))

/-- COMP_TP.B (R189). -/
def execCompTPB (adcT adcP : BitVec 20) (s : State) : Host.Outcome State Fault Refusal :=
  checked (.compTPB adcT adcP) (calReady s) s (writePresF adcP (writeTempF adcT s))

/-- COMP_TP.C (R190). -/
def execCompTPC (adcT adcP : BitVec 20) (s : State) : Host.Outcome State Fault Refusal :=
  checked (.compTPC adcT adcP) (calReady s) s (writePresC adcP (writeTempInt .c adcT s))

end Sys2Proof.Machine
end

