-- ==== Sys2Proof/Machine/Codec.lean ====
section
/-! DEFINITION. The register codec commands (40_codec.md): no bus transaction, no precondition. -/

namespace Sys2Proof.Machine

/-- The two result bytes of ENCODE_CONFIG and APPLY_CONFIG (R121, R144). -/
def writeEncoded (f : ConfigFields) (s : State) : State :=
  { s with encConfig := .of (packConfig f), encCtrlMeas := .of (packCtrlMeas f) }

/-- The two status flags of a status byte (R123, R146). -/
def writeStatusFlags (sb : Byte) (s : State) : State :=
  { s with statMeasuring := .of (statusMeasuring sb), statImUpdate := .of (statusImUpdate sb) }

/-- ENCODE_CONFIG (R121). -/
def execEncodeConfig (f : ConfigFields) (s : State) : Host.Outcome State Fault Refusal :=
  .next (writeEncoded f s)

/-- DECODE_CONFIG (R122). -/
def execDecodeConfig (cfg ctrl : Byte) (s : State) : Host.Outcome State Fault Refusal :=
  .next { s with decFields := .of (bitsOfFields (unpackConfig cfg ctrl)) }

/-- DECODE_STATUS (R123); `STATUS_BYTE` is not written. -/
def execDecodeStatus (sb : Byte) (s : State) : Host.Outcome State Fault Refusal :=
  .next (writeStatusFlags sb s)

end Sys2Proof.Machine
end

