-- ==== Sys2Proof/Machine/Sequencer.lean ====
section
/-! DEFINITION. The commands that talk to the sensor (41_calibration_and_sequencer.md). -/

namespace Sys2Proof.Machine

/-- RESET (R141): the calibration store, the shadow, every result register and `FAULT` are kept. -/
def execReset (s : State) : Host.Outcome State Fault Refusal :=
  .next { busWrite addrReset resetCode s with
    phase := .uninit
    resetSeen := true
    tFineValid := false
    tFineSrc := 0 }

/-- What LOAD_CALIB does when its precondition holds (R142). -/
def loadCalibration (s : State) : State :=
  { busRead addrCalib 24 s with
    cal := .of (calibOfBytes (answerByte s))
    phase := .calLoaded
    resetSeen := false
    tFineValid := false
    tFineSrc := 0 }

/-- LOAD_CALIB (R142). -/
def execLoadCalib (s : State) : Host.Outcome State Fault Refusal :=
  checked .loadCalib (canLoadCalib s) s (loadCalibration s)

/-- What APPLY_CONFIG does when its precondition holds (R144): the `config` write, then the `ctrl_meas` write
(R75). -/
def applyConfiguration (f : ConfigFields) (s : State) : State :=
  let s1 := writeEncoded f { s with shadow := .of f }
  { busWrite addrCtrlMeas (packCtrlMeas f) (busWrite addrConfig (packConfig f) s1) with
    phase := phaseAfterApply s.phase }

/-- APPLY_CONFIG (R144). -/
def execApplyConfig (f : ConfigFields) (s : State) : Host.Outcome State Fault Refusal :=
  checked (.applyConfig f) (calReady s) s (applyConfiguration f s)

/-- READ_STATUS (R146). -/
def execReadStatus (s : State) : Host.Outcome State Fault Refusal :=
  .next (writeStatusFlags (answerByte s 0)
    { busRead addrStatus 1 s with statusByte := .of (answerByte s 0) })

/-- What READ_RAW does when its precondition holds (R147): pressure first, then temperature. -/
def readRawSample (s : State) : State :=
  { busRead addrRaw 6 s with
    rawP := .of (assemble20 (answerByte s 0) (answerByte s 1) (answerByte s 2))
    rawT := .of (assemble20 (answerByte s 3) (answerByte s 4) (answerByte s 5))
    phase := phaseAfterRaw s.phase }

/-- READ_RAW (R147). -/
def execReadRaw (s : State) : Host.Outcome State Fault Refusal :=
  checked .readRaw (rawReady s) s (readRawSample s)

/-- READ_CHIP_ID (R149); the block does not judge the byte. -/
def execReadChipId (s : State) : Host.Outcome State Fault Refusal :=
  .next { busRead addrChipId 1 s with chipId := .of (answerByte s 0) }

end Sys2Proof.Machine
end

