-- ==== Sys2Proof/Machine/Dispatch.lean ====
section
/-! DEFINITION. The one dispatch over the commands: an arm per constructor of `Instr`. -/

namespace Sys2Proof.Machine

/-- What a decoded command does (R99): it completes as one step (R7). -/
def exec (i : Instr) (s : State) : Host.Outcome State Fault Refusal :=
  match i with
  | .reset => Sys2Proof.Machine.execReset s
  | .loadCalib => Sys2Proof.Machine.execLoadCalib s
  | .applyConfig f => Sys2Proof.Machine.execApplyConfig f s
  | .readStatus => Sys2Proof.Machine.execReadStatus s
  | .readRaw => Sys2Proof.Machine.execReadRaw s
  | .readChipId => Sys2Proof.Machine.execReadChipId s
  | .encodeConfig f => Sys2Proof.Machine.execEncodeConfig f s
  | .decodeConfig cfg ctrl => Sys2Proof.Machine.execDecodeConfig cfg ctrl s
  | .decodeStatus sb => Sys2Proof.Machine.execDecodeStatus sb s
  | .compTA adcT => Sys2Proof.Machine.execCompTA adcT s
  | .compTB adcT => Sys2Proof.Machine.execCompTB adcT s
  | .compTC adcT => Sys2Proof.Machine.execCompTC adcT s
  | .compPA adcP => Sys2Proof.Machine.execCompPA adcP s
  | .compPB adcP => Sys2Proof.Machine.execCompPB adcP s
  | .compPC adcP => Sys2Proof.Machine.execCompPC adcP s
  | .compTPA adcT adcP => Sys2Proof.Machine.execCompTPA adcT adcP s
  | .compTPB adcT adcP => Sys2Proof.Machine.execCompTPB adcT adcP s
  | .compTPC adcT adcP => Sys2Proof.Machine.execCompTPC adcT adcP s

end Sys2Proof.Machine
end

