-- ==== Sys2Proof/Machine/Step.lean ====
section
/-! DEFINITION. One step: the host's next move, taken to completion (R7, R74, R81). -/

namespace Sys2Proof.Machine

/-- A command word on the command port: decoded first, then executed; a word that decodes to no command raises
`Fault(ILLEGAL)` (R100, R222, R226). -/
def runWord (w : CmdWord) (s : State) : Host.Outcome State Fault Refusal :=
  match decode s.strategies w with
  | .ok i => exec i s
  | .error _ => .next (raiseFault .illegal w s)

/-- One step of the block. With no move of the host's pending it waits (R224, R250; log entry 1). -/
def step (s : State) : Host.Outcome State Fault Refusal :=
  match nextMove s with
  | none => .next s
  | some (.powerOn, s1) => .next (powerOnReset s1)
  | some (.command w, s1) => runWord w s1

/-- The state with a command word as the host's next move. -/
def State.withFetchWord (s : State) (nbits w : Nat) : State := issueFirst (wordOfBits nbits w) s

end Sys2Proof.Machine
end

