-- ==== Sys2Proof/Machine/Assembler.lean ====
section
/-! DEFINITION. The textual form of a command (R104, R105): the mnemonic with its operands as numbers, as a host's
assembler reads them. No rule of the block depends on it. -/

namespace Sys2Proof.Machine

/-- One line of assembler text, its operands still plain numbers (R104), or a pseudo-instruction (R105). -/
inductive AsmLine where
  | reset
  | ldcal
  | apply6 (osT osP mode odr filter spi3w : Nat)
  | rdstat
  | rdraw
  | rdid
  | enccfg (osT osP mode odr filter spi3w : Nat)
  | deccfg (cfg ctrl : Nat)
  | decstat (sb : Nat)
  | compt (st : Strategy) (adcT : Nat)
  | compp (st : Strategy) (adcP : Nat)
  | comptp (st : Strategy) (adcT adcP : Nat)
  | applyDefault
  | init
  deriving DecidableEq, Repr

/-- A number as a field of `w` bits: "An assembler refuses a value that does not fit its field" (R104). -/
def fitField (w n : Nat) : Option (BitVec w) := if n < 2 ^ w then some (BitVec.ofNat w n) else none

/-- The six operands of `apply` and `enccfg` (R104). -/
def fitConfig (osT osP mode odr filter spi3w : Nat) : Option ConfigFields :=
  match fitField 3 osT, fitField 3 osP, fitField 2 mode, fitField 3 odr, fitField 3 filter, fitField 1 spi3w with
  | some a, some b, some c, some d, some e, some f => some ⟨a, b, c, d, e, f⟩
  | _, _, _, _, _, _ => none

/-- The COMP_T command of a strategy (R99). -/
def compTOf : Strategy → BitVec 20 → Instr
  | .a, t => .compTA t
  | .b, t => .compTB t
  | .c, t => .compTC t

/-- The COMP_P command of a strategy (R99). -/
def compPOf : Strategy → BitVec 20 → Instr
  | .a, q => .compPA q
  | .b, q => .compPB q
  | .c, q => .compPC q

/-- The COMP_TP command of a strategy (R99). -/
def compTPOf : Strategy → BitVec 20 → BitVec 20 → Instr
  | .a, t, q => .compTPA t q
  | .b, t, q => .compTPB t q
  | .c, t, q => .compTPC t q

/-- The commands a line stands for, or `none` where the assembler refuses an operand (R104, R105). -/
def assemble : AsmLine → Option (List Instr)
  | .reset => some [.reset]
  | .ldcal => some [.loadCalib]
  | .apply6 osT osP mode odr filter spi3w =>
    (fitConfig osT osP mode odr filter spi3w).map (fun f => [.applyConfig f])
  | .rdstat => some [.readStatus]
  | .rdraw => some [.readRaw]
  | .rdid => some [.readChipId]
  | .enccfg osT osP mode odr filter spi3w =>
    (fitConfig osT osP mode odr filter spi3w).map (fun f => [.encodeConfig f])
  | .deccfg cfg ctrl =>
    match fitField 8 cfg, fitField 8 ctrl with
    | some a, some b => some [.decodeConfig a b]
    | _, _ => none
  | .decstat sb => (fitField 8 sb).map (fun b => [.decodeStatus b])
  | .compt st adcT => (fitField 20 adcT).map (fun t => [compTOf st t])
  | .compp st adcP => (fitField 20 adcP).map (fun q => [compPOf st q])
  | .comptp st adcT adcP =>
    match fitField 20 adcT, fitField 20 adcP with
    | some t, some q => some [compTPOf st t q]
    | _, _ => none
  | .applyDefault => some [.applyConfig defaultConfig]
  | .init => some initSequence

/-! ### Reading the characters of a line (R104) -/

/-- The pieces of a text between the characters `sep`. -/
def splitAtChar (sep : Char) : List Char → List (List Char)
  | [] => [[]]
  | c :: cs =>
    if c = sep then [] :: splitAtChar sep cs
    else
      match splitAtChar sep cs with
      | [] => [[c]]
      | w :: ws => (c :: w) :: ws

/-- A text without the spaces around it. -/
def trimSpaces (t : List Char) : List Char :=
  ((t.dropWhile (fun c => c = ' ')).reverse.dropWhile (fun c => c = ' ')).reverse

/-- A digit in a base; hexadecimal letters of either case. -/
def digitValue (base : Nat) (c : Char) : Option Nat :=
  let n := c.toNat
  let v :=
    if 48 ≤ n ∧ n < 58 then n - 48
    else if 97 ≤ n ∧ n < 103 then n - 87
    else if 65 ≤ n ∧ n < 71 then n - 55
    else base
  if v < base then some v else none

/-- A number from its digits, after the digits that make `acc`. -/
def readDigits (base : Nat) : Nat → List Char → Option Nat
  | acc, [] => some acc
  | acc, c :: cs =>
    match digitValue base c with
    | some d => readDigits base (acc * base + d) cs
    | none => none

/-- A number, decimal or `0x` hexadecimal (R104). -/
def readNumber : List Char → Option Nat
  | [] => none
  | ['0', 'x'] => none
  | '0' :: 'x' :: c :: cs => readDigits 16 0 (c :: cs)
  | cs => readDigits 10 0 cs

/-- The number in an operand `name=number`. -/
def readNamed (name : String) (operand : List Char) : Option Nat :=
  match splitAtChar '=' operand with
  | [k, v] => if trimSpaces k = name.toList then readNumber (trimSpaces v) else none
  | _ => none

/-- A line without operands. -/
def readBare (mn : List Char) : Option AsmLine :=
  if mn = "reset".toList then some .reset
  else if mn = "ldcal".toList then some .ldcal
  else if mn = "rdstat".toList then some .rdstat
  else if mn = "rdraw".toList then some .rdraw
  else if mn = "rdid".toList then some .rdid
  else if mn = "apply.default".toList then some .applyDefault
  else if mn = "init".toList then some .init
  else none

/-- A line with one operand. -/
def readOne (mn x : List Char) : Option AsmLine :=
  match readNumber x with
  | none => none
  | some n =>
    if mn = "decstat".toList then some (.decstat n)
    else if mn = "compt.a".toList then some (.compt .a n)
    else if mn = "compt.b".toList then some (.compt .b n)
    else if mn = "compt.c".toList then some (.compt .c n)
    else if mn = "compp.a".toList then some (.compp .a n)
    else if mn = "compp.b".toList then some (.compp .b n)
    else if mn = "compp.c".toList then some (.compp .c n)
    else none

/-- A line with two operands. -/
def readTwo (mn x y : List Char) : Option AsmLine :=
  if mn = "deccfg".toList then
    match readNamed "cfg" x, readNamed "ctrl" y with
    | some m, some n => some (.deccfg m n)
    | _, _ => none
  else
    match readNumber x, readNumber y with
    | some m, some n =>
      if mn = "comptp.a".toList then some (.comptp .a m n)
      else if mn = "comptp.b".toList then some (.comptp .b m n)
      else if mn = "comptp.c".toList then some (.comptp .c m n)
      else none
    | _, _ => none

/-- A line with the six operands of `apply` and `enccfg`, "every one of the six operands is required". -/
def readSix (mn a b c d e f : List Char) : Option AsmLine :=
  match readNamed "os_t" a, readNamed "os_p" b, readNamed "mode" c, readNamed "odr" d, readNamed "filter" e,
    readNamed "spi3w" f with
  | some m, some n, some o, some p, some q, some r =>
    if mn = "apply".toList then some (.apply6 m n o p q r)
    else if mn = "enccfg".toList then some (.enccfg m n o p q r)
    else none
  | _, _, _, _, _, _ => none

/-- One line of text: the mnemonic, then its operands between commas, in the order of the table (R104; log
entry 16). -/
def readLine (text : List Char) : Option AsmLine :=
  let t := trimSpaces text
  let mn := t.takeWhile (fun c => c ≠ ' ')
  let rest := trimSpaces (t.dropWhile (fun c => c ≠ ' '))
  match if rest = [] then [] else (splitAtChar ',' rest).map trimSpaces with
  | [] => readBare mn
  | [x] => readOne mn x
  | [x, y] => readTwo mn x y
  | [a, b, c, d, e, f] => readSix mn a b c d e f
  | _ => none

/-- The command words of one line of text, `none` where the assembler refuses it. -/
def assembleText (text : String) : Option (List CmdWord) :=
  match readLine text.toList with
  | some line => (assemble line).map (fun is => is.map encode)
  | none => none

end Sys2Proof.Machine
end

