-- ==== Sys2Proof/Machine/SensorCodes.lean ====
section
/-! DEFINITION. How the sensor reads the codes that the block stores and sends unchanged (R27–R30), and the units of
the outputs (R181). No command depends on anything in this file: the tables are the sensor's and the host's. Entries
the spec marks as general knowledge are PRESUMED (log entry 8). -/

namespace Sys2Proof.Machine

/-- Oversampling factor of a code (R27); `none` is a skipped measurement. -/
def oversampling (c : BitVec 3) : Option Nat :=
  match c.toNat with
  | 0 => none
  | 1 => some 1
  | 2 => some 2
  | 3 => some 4
  | 4 => some 8
  | _ => some 16

/-- The sensor's power modes (R28, R233). -/
inductive PowerMode where
  | sleep
  | forced
  | normal
  deriving DecidableEq, Repr

/-- The power mode of a code (R28). -/
def powerMode (c : BitVec 2) : PowerMode :=
  match c.toNat with
  | 0 => .sleep
  | 3 => .normal
  | _ => .forced

/-- The standby time of a code in microseconds (R29). -/
def standbyMicros (c : BitVec 3) : Nat :=
  match c.toNat with
  | 0 => 500
  | 1 => 62500
  | 2 => 125000
  | 3 => 250000
  | 4 => 500000
  | 5 => 1000000
  | 6 => 2000000
  | _ => 4000000

/-- The IIR coefficient of a filter code (R30); `none` is off. -/
def filterCoefficient (c : BitVec 3) : Option Nat :=
  match c.toNat with
  | 0 => none
  | 1 => some 2
  | 2 => some 4
  | 3 => some 8
  | _ => some 16

/-- What a host divides `OUT_P_U32` by to get pascals, from `OUT_P_SRC` (R181): 256 for A, 1 for C; `OUT_P_U32` is
not the register of the last pressure under B. -/
def pressureScale (src : BitVec 2) : Option Nat :=
  match src.toNat with
  | 1 => some 256
  | 3 => some 1
  | _ => none

/-- What a host divides `OUT_T_I32` by to get degrees Celsius, from `OUT_T_SRC` (R181). -/
def temperatureScale (src : BitVec 2) : Option Nat :=
  match src.toNat with
  | 1 => some 100
  | 3 => some 100
  | _ => none

end Sys2Proof.Machine
end

