-- ==== Sys2Proof/Machine/HostPort.lean ====
section
/-! DEFINITION. The host read port (R42, R81): reading a register by name changes nothing. -/

namespace Sys2Proof.Machine

/-- The width of each register (10_state.md Part 1). -/
abbrev hostWidth : HostReg → Nat
  | .phase | .mode | .tFineSrc | .outTSrc | .outPSrc | .fault => 2
  | .resetSeen | .spi3w | .tFineValid | .statMeasuring | .statImUpdate => 1
  | .digT1 | .digT2 | .digT3 | .digP1 | .digP2 | .digP3 => 16
  | .digP4 | .digP5 | .digP6 | .digP7 | .digP8 | .digP9 => 16
  | .osT | .osP | .odr | .filter => 3
  | .tFine | .outTI32 | .outPU32 => 32
  | .rawP | .rawT => 20
  | .statusByte | .chipId | .encConfig | .encCtrlMeas => 8
  | .decFields => 15
  | .outTF64 | .outPF64 | .faultCmd => 64

/-- Why a host read has no answer. It is a property of the observation and no fault of the machine: a host read is
neither a command nor a step, and the block goes on as if it had not been made (R42, R81). -/
inductive ObservationError where
  /-- The register holds no value: "A model treats such a read as a fault of the host observation, never as zero"
  (R42; 92_eei_decisions.md D12; 93_implementation_defined.md U10, U20). Safe: nothing is claimed of the value. -/
  | holdsNoValue (r : HostReg)
  deriving DecidableEq, Repr

/-- What a host read shows of a register that holds no value until it is written (R42): its value as bits, or that
it holds none. -/
def readReg {α : Type} {w : Nat} (name : HostReg) (r : Reg α) (bits : α → BitVec w) :
    Except ObservationError (BitVec w) :=
  if r.hasValue then .ok (bits r.value) else .error (.holdsNoValue name)

/-- A host read of a register (R42, R81). DEDUCED (log entry 14): signed and binary64 registers are read as their bits.
The words of the store share one mark of holding a value, and so do the fields of the shadow (log entry 9). -/
def hostRead (r : HostReg) (s : State) : Except ObservationError (BitVec (hostWidth r)) :=
  match r with
  | .phase => .ok s.phase.code
  | .resetSeen => .ok (BitVec.ofBool s.resetSeen)
  | .digT1 => readReg .digT1 s.cal (fun c => c.digT1)
  | .digT2 => readReg .digT2 s.cal (fun c => c.digT2)
  | .digT3 => readReg .digT3 s.cal (fun c => c.digT3)
  | .digP1 => readReg .digP1 s.cal (fun c => c.digP1)
  | .digP2 => readReg .digP2 s.cal (fun c => c.digP2)
  | .digP3 => readReg .digP3 s.cal (fun c => c.digP3)
  | .digP4 => readReg .digP4 s.cal (fun c => c.digP4)
  | .digP5 => readReg .digP5 s.cal (fun c => c.digP5)
  | .digP6 => readReg .digP6 s.cal (fun c => c.digP6)
  | .digP7 => readReg .digP7 s.cal (fun c => c.digP7)
  | .digP8 => readReg .digP8 s.cal (fun c => c.digP8)
  | .digP9 => readReg .digP9 s.cal (fun c => c.digP9)
  | .osT => readReg .osT s.shadow (fun f => f.osT)
  | .osP => readReg .osP s.shadow (fun f => f.osP)
  | .mode => readReg .mode s.shadow (fun f => f.mode)
  | .odr => readReg .odr s.shadow (fun f => f.odr)
  | .filter => readReg .filter s.shadow (fun f => f.filter)
  | .spi3w => readReg .spi3w s.shadow (fun f => f.spi3w)
  | .tFine => readReg .tFine s.tFine id
  | .tFineValid => .ok (BitVec.ofBool s.tFineValid)
  | .tFineSrc => .ok s.tFineSrc
  | .rawP => readReg .rawP s.rawP id
  | .rawT => readReg .rawT s.rawT id
  | .statusByte => readReg .statusByte s.statusByte id
  | .statMeasuring => readReg .statMeasuring s.statMeasuring BitVec.ofBool
  | .statImUpdate => readReg .statImUpdate s.statImUpdate BitVec.ofBool
  | .chipId => readReg .chipId s.chipId id
  | .encConfig => readReg .encConfig s.encConfig id
  | .encCtrlMeas => readReg .encCtrlMeas s.encCtrlMeas id
  | .decFields => readReg .decFields s.decFields id
  | .outTI32 => readReg .outTI32 s.outTI32 id
  | .outPU32 => readReg .outPU32 s.outPU32 id
  | .outTF64 => readReg .outTF64 s.outTF64 id
  | .outPF64 => readReg .outPF64 s.outPF64 id
  | .outTSrc => .ok s.outTSrc
  | .outPSrc => .ok s.outPSrc
  | .fault => .ok s.fault
  | .faultCmd => readReg .faultCmd s.faultCmd id

/-- The host's identity check (R36, R149): whether the byte last read by READ_CHIP_ID is the expected one. -/
def identityMatches (s : State) : Except ObservationError Bool :=
  match readReg .chipId s.chipId id with
  | .ok b => .ok (decide (b = Config.expectedChipId))
  | .error e => .error e

end Sys2Proof.Machine
end

