-- ==== Sys2Proof/Safety.lean ====
section
/-! DEFINITION. Launches, runs and their ends (R264), and the invariants of the block: what holds between the
registers (R25, R33, R42, R140) and what holds of the bus trace (R70, R75, R257). -/

namespace Sys2Proof.Safety

open Sys2Proof.Machine

/-- A launch `(s0, ws, oracle)` (R264): the words are the host's moves, and the oracle's bytes are what it answers,
in order. -/
def launch (s0 : State) (ws : List CmdWord) (oracle : List Byte) : State :=
  { s0 with hostQueue := ws.map .command, answers := oracle }

/-- The run of a launch ends when the last word's step is complete (R264). -/
def runWords (s0 : State) (ws : List CmdWord) (oracle : List Byte) : Host.Outcome State Fault Refusal :=
  Host.Core.run Sys2Proof.core ws.length (launch s0 ws oracle)

/-- A correct end of a run: `FAULT = 0` (R227, R264). -/
abbrev correctEnd (s : State) : Prop := s.fault = 0

/-- What the registers promise each other. It is what makes the derived part of R42 true: no rule reads a
register that holds no value. -/
structure RegistersConsistent (s : State) : Prop where
  /-- The calibration store is valid from CAL_LOADED on (R21, R25). -/
  calHeld : calReady s = true → s.cal.hasValue = true
  /-- A configuration has been applied from CONFIGURED on (R21, R32). -/
  shadowHeld : rawReady s = true → s.shadow.hasValue = true
  /-- A raw sample has been read in SAMPLING (R21, R34). -/
  rawHeld : s.phase = .sampling → s.rawP.hasValue = true ∧ s.rawT.hasValue = true
  /-- `RESET_SEEN` is 1 only between RESET and LOAD_CALIB, where the phase is UNINIT (R22, R140). -/
  resetSeenPhase : s.resetSeen = true → s.phase = .uninit
  /-- `TFINE_VALID` says that `T_FINE` was produced under the current store (R33). -/
  tFineHeld : s.tFineValid = true → s.tFine.hasValue = true ∧ calReady s = true
  /-- `TFINE_SRC` is 0 exactly when there is no valid `T_FINE` (R33, R141, R142). -/
  tFineTagged : s.tFineValid = true ↔ s.tFineSrc ≠ 0
  /-- A fault has been recorded with its first word, and without one `FAULT_CMD` holds no value (R39, R224). -/
  faultRecorded : s.fault ≠ 0 ↔ s.faultCmd.hasValue = true
  /-- `OUT_T_SRC` is 0 exactly when there is no temperature result (R38). -/
  outTTagged : s.outTSrc ≠ 0 ↔ (s.outTI32.hasValue = true ∨ s.outTF64.hasValue = true)
  /-- `OUT_P_SRC` is 0 exactly when there is no pressure result (R38). -/
  outPTagged : s.outPSrc ≠ 0 ↔ (s.outPU32.hasValue = true ∨ s.outPF64.hasValue = true)
  /-- Bit 1 of `ENC_CONFIG` is always written as 0 (R49, R121). -/
  configBit1 : s.encConfig.hasValue = true → s.encConfig.value.getLsbD 1 = false
  /-- Some strategy is built in (R6). -/
  someStrategy : s.strategies.nonEmpty = true

/-- A transaction of the table in R70: no other address, length or `reset` value reaches the bus, and a read
brings as many bytes as it asked for (R44, R46, R64). -/
def allowedEvent : BusEvent → Bool
  | .read addr n bytes =>
    decide (bytes.length = n) &&
      (decide (addr = addrChipId ∧ n = 1) || decide (addr = addrStatus ∧ n = 1) ||
        decide (addr = addrRaw ∧ n = 6) || decide (addr = addrCalib ∧ n = 24))
  | .write addr v =>
    decide (addr = addrReset ∧ v = resetCode) || decide (addr = addrConfig) || decide (addr = addrCtrlMeas)

/-- Each `config` write is followed at once by a `ctrl_meas` write, and no `ctrl_meas` write stands anywhere else
(R75, R254). -/
def configWritesPaired : List BusEvent → Bool
  | [] => true
  | .write a _ :: rest =>
    if a = addrConfig then
      match rest with
      | .write b _ :: rest' => decide (b = addrCtrlMeas) && configWritesPaired rest'
      | _ => false
    else if a = addrCtrlMeas then false
    else configWritesPaired rest
  | .read _ _ _ :: rest => configWritesPaired rest

/-- What a trace says of RESET and LOAD_CALIB, from a state in which a RESET is `pending` or not: `none` if a
calibration read stands where no RESET is pending, else whether one is pending at the end (R142, R257). -/
def pendingReset : Bool → List BusEvent → Option Bool
  | pending, [] => some pending
  | pending, .write a _ :: rest => pendingReset (pending || decide (a = addrReset)) rest
  | pending, .read a _ _ :: rest =>
    if a = addrCalib then (if pending then pendingReset false rest else none) else pendingReset pending rest

/-- What the bus trace promises: the block's own table of transactions (R70), the order of a configuration change
(R75), and one calibration load after each RESET (R257). `RESET_SEEN` is what the trace says it is. -/
structure TraceConsistent (s : State) : Prop where
  allowed : s.busTrace.all allowedEvent = true
  paired : configWritesPaired s.busTrace = true
  loads : pendingReset false s.busTrace = some s.resetSeen

/-- Two registers that no host read tells apart (R42): both hold no value, or both hold the same value. -/
def sameSeen {α : Type} (r r' : Reg α) : Prop :=
  r.hasValue = r'.hasValue ∧ (r.hasValue = true → r.value = r'.value)

/-- Two states that differ at most in what the model stores in registers that hold no value (log entry 2). -/
structure SameBlock (s t : State) : Prop where
  phase : s.phase = t.phase
  resetSeen : s.resetSeen = t.resetSeen
  cal : sameSeen s.cal t.cal
  shadow : sameSeen s.shadow t.shadow
  tFine : sameSeen s.tFine t.tFine
  tFineValid : s.tFineValid = t.tFineValid
  tFineSrc : s.tFineSrc = t.tFineSrc
  rawP : sameSeen s.rawP t.rawP
  rawT : sameSeen s.rawT t.rawT
  statusByte : sameSeen s.statusByte t.statusByte
  statMeasuring : sameSeen s.statMeasuring t.statMeasuring
  statImUpdate : sameSeen s.statImUpdate t.statImUpdate
  chipId : sameSeen s.chipId t.chipId
  encConfig : sameSeen s.encConfig t.encConfig
  encCtrlMeas : sameSeen s.encCtrlMeas t.encCtrlMeas
  decFields : sameSeen s.decFields t.decFields
  outTI32 : sameSeen s.outTI32 t.outTI32
  outPU32 : sameSeen s.outPU32 t.outPU32
  outTF64 : sameSeen s.outTF64 t.outTF64
  outPF64 : sameSeen s.outPF64 t.outPF64
  outTSrc : s.outTSrc = t.outTSrc
  outPSrc : s.outPSrc = t.outPSrc
  fault : s.fault = t.fault
  faultCmd : sameSeen s.faultCmd t.faultCmd
  busTrace : s.busTrace = t.busTrace
  strategies : s.strategies = t.strategies
  hostQueue : s.hostQueue = t.hostQueue
  answers : s.answers = t.answers
  draws : s.draws = t.draws

end Sys2Proof.Safety
end

