-- ==== Sys2Proof/Reference.lean ====
section
/-! DEFINITION. What the statements measure the model against, written from the rules in plain integers and
rationals: the arithmetic of rule R9, the fixed-point functions over it, and the value and rounding of a binary64
number. The machine uses nothing of this file. -/

namespace Sys2Proof.Reference

open Sys2Proof.Machine

/-- `iN(v)`: the value in [-2^(N-1), 2^(N-1)) congruent to v modulo 2^N (R9). -/
def sInt (n : Nat) (v : Int) : Int := (v + 2 ^ (n - 1)) % 2 ^ n - 2 ^ (n - 1)

/-- `uN(v)`: the value in [0, 2^N) congruent to v modulo 2^N (R9). -/
def uInt (n : Nat) (v : Int) : Int := v % 2 ^ n

/-- `x >> k` on an `iN`, and on a `uN`: floor of x / 2^k (R9, R172). -/
def shr (x : Int) (k : Nat) : Int := Int.fdiv x (2 ^ k)

/-- `temp_int` in the integers of rule R9 (R176): `t_fine` and T from `adc_T` and the words DIG_T1..3. -/
def tempInt (adcT t1 t2 t3 : Int) : Int × Int :=
  let m1 := sInt 32 (sInt 32 (shr adcT 3 - sInt 32 (t1 * 2 ^ 1)) * t2)
  let var1 := shr m1 11
  let d := sInt 32 (shr adcT 4 - t1)
  let var2 := shr (sInt 32 (shr (sInt 32 (d * d)) 12 * t3)) 14
  let tFine := sInt 32 (var1 + var2)
  (tFine, shr (sInt 32 (sInt 32 (tFine * 5) + 128)) 8)

/-- The denominator `v1` of `pres_a` in the integers of rule R9 (R177). -/
def presADen (c : Calib) (tFine : Int) : Int :=
  let v1 := sInt 64 (tFine - 128000)
  let x := shr (sInt 64 (sInt 64 (v1 * v1) * c.digP3.toInt)) 8
  let y := sInt 64 (sInt 64 (v1 * c.digP2.toInt) * 2 ^ 12)
  shr (sInt 64 (sInt 64 (2 ^ 47 + sInt 64 (x + y)) * c.digP1.toNat)) 33

/-- `pres_a` in the integers of rule R9 (R177). -/
def presA (c : Calib) (adcP tFine : Int) : Int :=
  let v1 := sInt 64 (tFine - 128000)
  let v2 := sInt 64 (sInt 64 (v1 * v1) * c.digP6.toInt)
  let v2 := sInt 64 (v2 + sInt 64 (sInt 64 (v1 * c.digP5.toInt) * 2 ^ 17))
  let v2 := sInt 64 (v2 + sInt 64 (c.digP4.toInt * 2 ^ 35))
  let v1 := presADen c tFine
  if v1 = 0 then 0
  else
    let p := sInt 32 (1048576 - adcP)
    let p := sInt 64 (Int.tdiv (sInt 64 (sInt 64 (sInt 64 (p * 2 ^ 31) - v2) * 3125)) v1)
    let v1 := shr (sInt 64 (sInt 64 (c.digP9.toInt * shr p 13) * shr p 13)) 25
    let v2 := shr (sInt 64 (c.digP8.toInt * p)) 19
    let p := sInt 64 (shr (sInt 64 (sInt 64 (p + v1) + v2)) 8 + sInt 64 (c.digP7.toInt * 2 ^ 4))
    uInt 32 p

/-- The denominator `v1` of `pres_c` in the integers of rule R9 (R178). -/
def presCDen (c : Calib) (tFine : Int) : Int :=
  let v1 := sInt 32 (shr tFine 1 - 64000)
  let q := sInt 32 (shr v1 2 * shr v1 2)
  let x := shr (sInt 32 (c.digP3.toInt * shr q 13)) 3
  let y := shr (sInt 32 (c.digP2.toInt * v1)) 1
  let w := shr (sInt 32 (x + y)) 18
  shr (sInt 32 (sInt 32 (32768 + w) * c.digP1.toNat)) 15

/-- `pres_c` in the integers of rule R9 (R178). -/
def presC (c : Calib) (adcP tFine : Int) : Int :=
  let v1 := sInt 32 (shr tFine 1 - 64000)
  let q := sInt 32 (shr v1 2 * shr v1 2)
  let v2 := sInt 32 (shr q 11 * c.digP6.toInt)
  let v2 := sInt 32 (v2 + sInt 32 (sInt 32 (v1 * c.digP5.toInt) * 2 ^ 1))
  let v2 := sInt 32 (shr v2 2 + sInt 32 (c.digP4.toInt * 2 ^ 16))
  let v1 := presCDen c tFine
  if v1 = 0 then 0
  else
    let p := uInt 32 (uInt 32 (uInt 32 (sInt 32 (1048576 - adcP)) - uInt 32 (shr v2 12)) * 3125)
    let p :=
      if p < 2147483648 then Int.fdiv (uInt 32 (p * 2 ^ 1)) (uInt 32 v1)
      else uInt 32 (Int.fdiv p (uInt 32 v1) * 2)
    let w1 := shr (sInt 32 (c.digP9.toInt * sInt 32 (shr (uInt 32 (shr p 3 * shr p 3)) 13))) 12
    let w2 := shr (sInt 32 (sInt 32 (shr p 2) * c.digP8.toInt)) 13
    uInt 32 (sInt 32 (sInt 32 p + shr (sInt 32 (sInt 32 (w1 + w2) + c.digP7.toInt)) 4))

/-- The number a binary64 bit pattern stands for, `none` for NaN and the infinities (R10). -/
def f64Value (x : F64) : Option ℚ :=
  let sign : ℚ := if x.getLsbD 63 then -1 else 1
  let expo : ℕ := x.toNat / 2 ^ 52 % 2 ^ 11
  let frac : ℕ := x.toNat % 2 ^ 52
  if expo = 2047 then none
  else if expo = 0 then some (sign * frac * (2 : ℚ) ^ (-1074 : ℤ))
  else some (sign * (2 ^ 52 + frac) * (2 : ℚ) ^ ((expo : ℤ) - 1075))

/-- The magnitude from which a result rounds to an infinity: half a unit past the largest finite number. -/
def overflowBound : ℚ := 2 ^ 1024 - 2 ^ 970

/-- `r` is the exact number `v` rounded to binary64, to nearest with ties to even (R10, R175): below the overflow
bound it is a finite number, none is nearer, and where another is as near, the last bit of `r` is 0; from the bound on
it is the infinity of the sign of `v`. A nonzero `v` keeps its sign. -/
structure CorrectlyRounded (v : ℚ) (r : F64) : Prop where
  finite : |v| < overflowBound → ∃ z, f64Value r = some z ∧
    (∀ y w, f64Value y = some w → |z - v| ≤ |w - v|) ∧
    (∀ y w, f64Value y = some w → w ≠ z → |w - v| = |z - v| → r.getLsbD 0 = false)
  overflow : overflowBound ≤ |v| → r = f64Inf (decide (v < 0))
  negative : v < 0 → r.getLsbD 63 = true
  positive : 0 < v → r.getLsbD 63 = false

/-! ### The rules as tables -/

/-- The rows of spec/opcode_table.json: opcode, `match`, `mask`. -/
def opcodeTable : List (BitVec 8 × CmdWord × CmdWord) :=
  [(0x01#8, 0x0100000000000000#64, 0xFFFFFFFFFFFFFFFF#64), (0x02#8, 0x0200000000000000#64, 0xFFFFFFFFFFFFFFFF#64),
    (0x03#8, 0x0300000000000000#64, 0xFFFFFFFFFFFF8000#64), (0x04#8, 0x0400000000000000#64, 0xFFFFFFFFFFFFFFFF#64),
    (0x05#8, 0x0500000000000000#64, 0xFFFFFFFFFFFFFFFF#64), (0x06#8, 0x0600000000000000#64, 0xFFFFFFFFFFFFFFFF#64)] ++
  [(0x08#8, 0x0800000000000000#64, 0xFFFFFFFFFFFF8000#64), (0x09#8, 0x0900000000000000#64, 0xFFFFFFFFFFFF0000#64),
    (0x0A#8, 0x0A00000000000000#64, 0xFFFFFFFFFFFFFF00#64)] ++
  [(0x10#8, 0x1000000000000000#64, 0xFFFFFFFFFFF00000#64), (0x11#8, 0x1100000000000000#64, 0xFFFFFFFFFFF00000#64),
    (0x12#8, 0x1200000000000000#64, 0xFFFFFFFFFFF00000#64), (0x14#8, 0x1400000000000000#64, 0xFFFFFF00000FFFFF#64),
    (0x15#8, 0x1500000000000000#64, 0xFFFFFF00000FFFFF#64), (0x16#8, 0x1600000000000000#64, 0xFFFFFF00000FFFFF#64)] ++
  [(0x18#8, 0x1800000000000000#64, 0xFFFFFF0000000000#64), (0x19#8, 0x1900000000000000#64, 0xFFFFFF0000000000#64),
    (0x1A#8, 0x1A00000000000000#64, 0xFFFFFF0000000000#64)]

/-- The bits of a command word that a format reserves, as positions (R91–R97). -/
def reservedPosition : Format → Nat → Bool
  | .n, k => decide (k < 56)
  | .cf, k => decide (15 ≤ k ∧ k < 56)
  | .cb, k => decide (16 ≤ k ∧ k < 56)
  | .sb, k => decide (8 ≤ k ∧ k < 56)
  | .aT, k => decide (20 ≤ k ∧ k < 56)
  | .aP, k => decide (k < 20) || decide (40 ≤ k ∧ k < 56)
  | .aTP, k => decide (40 ≤ k ∧ k < 56)

/-- The format of an opcode, `none` for an opcode that is not in the map (R99, R101). -/
def formatOfOpcode (n : Nat) : Option Format :=
  if n ∈ [0x01, 0x02, 0x04, 0x05, 0x06] then some .n
  else if n ∈ [0x03, 0x08] then some .cf
  else if n = 0x09 then some .cb
  else if n = 0x0A then some .sb
  else if n ∈ [0x10, 0x11, 0x12] then some .aT
  else if n ∈ [0x14, 0x15, 0x16] then some .aP
  else if n ∈ [0x18, 0x19, 0x1A] then some .aTP
  else none

/-- The strategy of a compensation opcode: `ss = OPC[1:0]` (R98). -/
def strategyOfOpcode (n : Nat) : Option Strategy :=
  if n ∈ [0x10, 0x14, 0x18] then some .a
  else if n ∈ [0x11, 0x15, 0x19] then some .b
  else if n ∈ [0x12, 0x16, 0x1A] then some .c
  else none

/-- The conditions of rule R222 on a word, for a build with the strategies `p`. -/
def IllegalWord (p : StrategySet) (w : CmdWord) : Prop :=
  formatOfOpcode (w.toNat / 2 ^ 56) = none ∨
  (∃ st, strategyOfOpcode (w.toNat / 2 ^ 56) = some st ∧ p.has st = false) ∨
  (∃ f k, formatOfOpcode (w.toNat / 2 ^ 56) = some f ∧ reservedPosition f k = true ∧ w.getLsbD k = true)

/-- The precondition of each command, as the table of rule R221 has it. -/
def precondition : Instr → State → Prop
  | .reset, _ => True
  | .loadCalib, s => s.phase = .uninit ∧ s.resetSeen = true
  | .applyConfig _, s => s.phase ≠ .uninit
  | .readStatus, _ => True
  | .readRaw, s => s.phase = .configured ∨ s.phase = .sampling
  | .readChipId, _ => True
  | .encodeConfig _, _ => True
  | .decodeConfig _ _, _ => True
  | .decodeStatus _, _ => True
  | .compTA _, s => s.phase ≠ .uninit
  | .compTB _, s => s.phase ≠ .uninit
  | .compTC _, s => s.phase ≠ .uninit
  | .compPA _, s => s.phase ≠ .uninit ∧ s.tFineValid = true
  | .compPB _, s => s.phase ≠ .uninit ∧ s.tFineValid = true
  | .compPC _, s => s.phase ≠ .uninit ∧ s.tFineValid = true
  | .compTPA _ _, s => s.phase ≠ .uninit
  | .compTPB _ _, s => s.phase ≠ .uninit
  | .compTPC _ _, s => s.phase ≠ .uninit

/-- `PHASE` after a command whose precondition holds, as the table of rule R140 has it. -/
def phaseAfter : Instr → Phase → Phase
  | .reset, _ => .uninit
  | .loadCalib, _ => .calLoaded
  | .applyConfig _, p => if p = .calLoaded then .configured else p
  | .readRaw, p => if p = .configured then .sampling else p
  | _, p => p

/-- The number each word of the calibration store stands for: `DIG_T1` and `DIG_P1` unsigned, the others two's
complement (R24). -/
def wordValue (c : Calib) : CalibWord → ℤ
  | .t1 => c.digT1.toNat
  | .p1 => c.digP1.toNat
  | .t2 => c.digT2.toInt
  | .t3 => c.digT3.toInt
  | .p2 => c.digP2.toInt
  | .p3 => c.digP3.toInt
  | .p4 => c.digP4.toInt
  | .p5 => c.digP5.toInt
  | .p6 => c.digP6.toInt
  | .p7 => c.digP7.toInt
  | .p8 => c.digP8.toInt
  | .p9 => c.digP9.toInt

/-- The commands that compute a temperature: the ones that set `TFINE_VALID` (R33, R40). -/
def isTemperatureCommand : Instr → Bool
  | .compTA _ | .compTB _ | .compTC _ | .compTPA _ _ | .compTPB _ _ | .compTPC _ _ => true
  | .reset | .loadCalib | .applyConfig _ | .readStatus | .readRaw | .readChipId | .encodeConfig _
  | .decodeConfig _ _ | .decodeStatus _ | .compPA _ | .compPB _ | .compPC _ => false

/-- The number whose bits each register that the host can name holds, `none` where it holds no value (R42). The names
leave out `BUS_TRACE`, and signed and binary64 registers count as their bit patterns (log entry 14); the words of the
store share one mark of holding a value, and so do the fields of the shadow (log entry 9). -/
def heldNumber : HostReg → State → Option ℕ
  | .phase, s =>
    match s.phase with
    | .uninit => some 0
    | .calLoaded => some 1
    | .configured => some 2
    | .sampling => some 3
  | .resetSeen, s => some s.resetSeen.toNat
  | .digT1, s => if s.cal.hasValue then some s.cal.value.digT1.toNat else none
  | .digT2, s => if s.cal.hasValue then some s.cal.value.digT2.toNat else none
  | .digT3, s => if s.cal.hasValue then some s.cal.value.digT3.toNat else none
  | .digP1, s => if s.cal.hasValue then some s.cal.value.digP1.toNat else none
  | .digP2, s => if s.cal.hasValue then some s.cal.value.digP2.toNat else none
  | .digP3, s => if s.cal.hasValue then some s.cal.value.digP3.toNat else none
  | .digP4, s => if s.cal.hasValue then some s.cal.value.digP4.toNat else none
  | .digP5, s => if s.cal.hasValue then some s.cal.value.digP5.toNat else none
  | .digP6, s => if s.cal.hasValue then some s.cal.value.digP6.toNat else none
  | .digP7, s => if s.cal.hasValue then some s.cal.value.digP7.toNat else none
  | .digP8, s => if s.cal.hasValue then some s.cal.value.digP8.toNat else none
  | .digP9, s => if s.cal.hasValue then some s.cal.value.digP9.toNat else none
  | .osT, s => if s.shadow.hasValue then some s.shadow.value.osT.toNat else none
  | .osP, s => if s.shadow.hasValue then some s.shadow.value.osP.toNat else none
  | .mode, s => if s.shadow.hasValue then some s.shadow.value.mode.toNat else none
  | .odr, s => if s.shadow.hasValue then some s.shadow.value.odr.toNat else none
  | .filter, s => if s.shadow.hasValue then some s.shadow.value.filter.toNat else none
  | .spi3w, s => if s.shadow.hasValue then some s.shadow.value.spi3w.toNat else none
  | .tFine, s => if s.tFine.hasValue then some s.tFine.value.toNat else none
  | .tFineValid, s => some s.tFineValid.toNat
  | .tFineSrc, s => some s.tFineSrc.toNat
  | .rawP, s => if s.rawP.hasValue then some s.rawP.value.toNat else none
  | .rawT, s => if s.rawT.hasValue then some s.rawT.value.toNat else none
  | .statusByte, s => if s.statusByte.hasValue then some s.statusByte.value.toNat else none
  | .statMeasuring, s => if s.statMeasuring.hasValue then some s.statMeasuring.value.toNat else none
  | .statImUpdate, s => if s.statImUpdate.hasValue then some s.statImUpdate.value.toNat else none
  | .chipId, s => if s.chipId.hasValue then some s.chipId.value.toNat else none
  | .encConfig, s => if s.encConfig.hasValue then some s.encConfig.value.toNat else none
  | .encCtrlMeas, s => if s.encCtrlMeas.hasValue then some s.encCtrlMeas.value.toNat else none
  | .decFields, s => if s.decFields.hasValue then some s.decFields.value.toNat else none
  | .outTI32, s => if s.outTI32.hasValue then some s.outTI32.value.toNat else none
  | .outPU32, s => if s.outPU32.hasValue then some s.outPU32.value.toNat else none
  | .outTF64, s => if s.outTF64.hasValue then some s.outTF64.value.toNat else none
  | .outPF64, s => if s.outPF64.hasValue then some s.outPF64.value.toNat else none
  | .outTSrc, s => some s.outTSrc.toNat
  | .outPSrc, s => some s.outPSrc.toNat
  | .fault, s => some s.fault.toNat
  | .faultCmd, s => if s.faultCmd.hasValue then some s.faultCmd.value.toNat else none

/-- The state after the fault procedure of rule R224 with the bits `c` of `FAULT` and the word `w`. -/
def faulted (c : BitVec 2) (w : CmdWord) (s : State) : State :=
  { s with fault := s.fault ||| c, faultCmd := if s.fault = 0 then ⟨w, true⟩ else s.faultCmd }

/-- The `config` byte by its bits (R49): 7:5 ODR, 4:2 FILTER, 1 zero, 0 SPI3W. -/
def configByte (f : ConfigFields) : Byte := f.odr ++ f.filter ++ 0#1 ++ f.spi3w

/-- The `ctrl_meas` byte by its bits (R48): 7:5 OS_T, 4:2 OS_P, 1:0 MODE. -/
def ctrlMeasByte (f : ConfigFields) : Byte := f.osT ++ f.osP ++ f.mode

/-- The bytes each command sends on the bus, in order (R106). -/
def wireBytes : Instr → List Byte
  | .reset => [0x60#8, 0xB6#8]
  | .loadCalib => [0x88#8]
  | .applyConfig f => [0x75#8, configByte f, 0x74#8, ctrlMeasByte f]
  | .readStatus => [0xF3#8]
  | .readRaw => [0xF7#8]
  | .readChipId => [0xD0#8]
  | _ => []

/-- Calibration word `k` from the 24 bytes (R66): the low byte, and 256 times the high byte. -/
def word (b : Nat → Byte) (k : Nat) : BitVec 16 := BitVec.ofNat 16 ((b (2 * k)).toNat + 256 * (b (2 * k + 1)).toNat)

/-- The calibration store in the order of rule R23. -/
def calibration (b : Nat → Byte) : Calib :=
  ⟨word b 0, word b 1, word b 2, word b 3, word b 4, word b 5, word b 6, word b 7, word b 8, word b 9, word b 10,
    word b 11⟩

/-- A raw sample from its three bytes (R148): msb * 4096 + lsb * 16 + (xlsb >> 4). -/
def sample (msb lsb xlsb : Byte) : BitVec 20 := BitVec.ofNat 20 (msb.toNat * 4096 + lsb.toNat * 16 + xlsb.toNat / 16)

/-- `t_fine` of `temp_int` for a sample and a calibration store (R176). -/
def tFineInt (c : Calib) (adcT : BitVec 20) : BitVec 32 :=
  BitVec.ofInt 32 (tempInt adcT.toNat c.digT1.toNat c.digT2.toInt c.digT3.toInt).1

/-- T of `temp_int` for a sample and a calibration store (R176). -/
def tempIntBits (c : Calib) (adcT : BitVec 20) : BitVec 32 :=
  BitVec.ofInt 32 (tempInt adcT.toNat c.digT1.toNat c.digT2.toInt c.digT3.toInt).2

/-- `pres_a` for a sample, a calibration store and a `t_fine` (R177). -/
def presABits (c : Calib) (adcP : BitVec 20) (tFine : BitVec 32) : BitVec 32 :=
  BitVec.ofInt 32 (presA c adcP.toNat tFine.toInt)

/-- `pres_c` for a sample, a calibration store and a `t_fine` (R178). -/
def presCBits (c : Calib) (adcP : BitVec 20) (tFine : BitVec 32) : BitVec 32 :=
  BitVec.ofInt 32 (presC c adcP.toNat tFine.toInt)

end Sys2Proof.Reference
end

