-- ==== Sys2Proof/Certificates/Slice0/Obligations.lean ====
section
/-! DEFINITION. The statements about the model, for the provers. Each says what a rule of the spec says the block does;
`Reference` holds the rules' own tables and formulas that they measure the model against. -/

open Sys2Proof Sys2Proof.Machine Sys2Proof.Safety

/-- For every set of built-in strategies and every command that exists in that build, with every value of every
operand, decoding the command's encoded word gives exactly that command. (R90, R100, R102, 30_encoding.md.) -/
def Obligations.DecodeOfEncodeIsIdentity : Prop :=
  ∀ (p : StrategySet) (i : Instr), i.wellFormed p = true → decode p (encode i) = .ok i

/-- For every set of strategies and every 64-bit word: if the word decodes to a command, the command exists in that
build and its encoded word is the word itself. So every accepted word has exactly one meaning and every command
has exactly one word. (R90, R100, R101, 30_encoding.md.) -/
def Obligations.EncodeOfDecodeIsIdentity : Prop :=
  ∀ (p : StrategySet) (w : CmdWord) (i : Instr), decode p w = .ok i → i.wellFormed p = true ∧ encode i = w

/-- In the default build: for each row of spec/opcode_table.json, a word's masked bits equal the row's match exactly
when the word decodes to a command with the row's opcode; and a word that no row matches is rejected. (R99,
R100, opcode_table.json.) -/
def Obligations.WordsSelectCommandsByMaskAndMatch : Prop :=
  (∀ (r : BitVec 8 × CmdWord × CmdWord) (w : CmdWord), r ∈ Reference.opcodeTable →
      (w &&& r.2.2 = r.2.1 ↔ ∃ i, decode StrategySet.all w = .ok i ∧ i.opcode = r.1)) ∧
    (∀ w : CmdWord, (∀ r ∈ Reference.opcodeTable, w &&& r.2.2 ≠ r.2.1) →
      ∃ e, decode StrategySet.all w = .error e)

/-- For every set of built-in strategies and every word: decoding rejects the word exactly when its OPC is not in
the map of R99, or it is a compensation opcode whose strategy is not built in, or a reserved operand bit of its
format is 1; and a step on such a word sets FAULT bit 1, puts the word into FAULT_CMD if FAULT was 0, and
changes nothing else but the queue. (R222.) -/
def Obligations.IllegalWordsMeetOneOfThreeConditions : Prop :=
  (∀ (p : StrategySet) (w : CmdWord), (∃ e, decode p w = .error e) ↔ Reference.IllegalWord p w) ∧
    ∀ (s : State) (w : CmdWord) (rest : List HostMove), s.hostQueue = .command w :: rest →
      Reference.IllegalWord s.strategies w →
        step s = .next (Reference.faulted 0b10 w { s with hostQueue := rest })

/-- The words the spec writes out for one command of every format decode to that command with those operands, and
the words of V-ILL-1, V-ILL-8 and V-ILL-13 are rejected, each for its reason. (R99, R105, 95_test_vectors.md.) -/
def Obligations.SpecWordsDecodeAsWritten : Prop :=
  decode .all 0x0100000000000000#64 = .ok .reset ∧
    decode .all 0x0300000000007FFF#64 = .ok (.applyConfig ⟨7, 7, 3, 7, 7, 1⟩) ∧
    decode .all 0x0800000000002B36#64 = .ok (.encodeConfig ⟨6, 6, 0, 3, 5, 0⟩) ∧
    decode .all 0x09000000000030B7#64 = .ok (.decodeConfig 0x30 0xB7) ∧
    decode .all 0x0A000000000000F6#64 = .ok (.decodeStatus 0xF6) ∧
    decode .all 0x110000000007EED0#64 = .ok (.compTB 519888) ∧
    decode .all 0x160000655AC00000#64 = .ok (.compPC 415148) ∧
    decode .all 0x180000655AC7EED0#64 = .ok (.compTPA 519888 415148) ∧
    decode .all 0x0000000000000000#64 = .error .unknownOpcode ∧
    decode .all 0x0900000000010000#64 = .error .reservedBit ∧
    decode ⟨true, false, false⟩ 0x110000000007EED0#64 = .error .absentStrategy

/-- When the host's next move is a command word that decodes, in the state's build, to a command, the step is the
execution of that command in the state without that move; nothing else is around it. (R7, R74, R100.) -/
def Obligations.StepExecutesTheDecodedCommand : Prop :=
  ∀ (s : State) (w : CmdWord) (rest : List HostMove) (i : Instr),
    s.hostQueue = .command w :: rest → decode s.strategies w = .ok i →
      step s = exec i { s with hostQueue := rest }

/-- When the host's next move is a word that decoding rejects, the step sets FAULT bit 1, puts the word into
FAULT_CMD if FAULT was 0, and changes nothing else, whatever the phase and the flags: decoding comes before
every precondition. (R222, R224, R226.) -/
def Obligations.IllegalWordIsRecordedBeforeAnyPrecondition : Prop :=
  ∀ (s : State) (w : CmdWord) (rest : List HostMove) (e : Reject),
    s.hostQueue = .command w :: rest → decode s.strategies w = .error e →
      step s = .next (Reference.faulted 0b10 w { s with hostQueue := rest })

/-- When the host's next move is a command word that is rejected, or that decodes to a command whose precondition of
R221 is false, the step answers a state that differs from the state before only in FAULT, FAULT_CMD (the word of
the first fault) and the move taken from the queue. So all registers and BUS_TRACE are unchanged: no register
write and no transaction came before the check. The precision is the spec's own inference (the sentence of
R225). (R221, R222, R224, 60_exceptions.md.) -/
def Obligations.FaultingCommandChangesOnlyTheFaultRegisters : Prop :=
  ∀ (s : State) (w : CmdWord) (rest : List HostMove), s.hostQueue = .command w :: rest →
    ((∃ e, decode s.strategies w = .error e) ∨
      (∃ i, decode s.strategies w = .ok i ∧ ¬ Reference.precondition i s)) →
    ∃ c : BitVec 2, (c = 0b01 ∨ c = 0b10) ∧
      step s = .next { s with
        hostQueue := rest
        fault := s.fault ||| c
        faultCmd := if s.fault = 0 then ⟨w, true⟩ else s.faultCmd }

/-- For every command and state: if the command's row of R221 is false, executing it answers the state with FAULT
bit 0 set, FAULT_CMD the command's word if FAULT was 0, and everything else unchanged. (R140, R221, R224.) -/
def Obligations.FailedPreconditionRecordsPrecond : Prop :=
  ∀ (i : Instr) (s : State), ¬ Reference.precondition i s →
    exec i s = .next (Reference.faulted 0b01 (encode i) s)

/-- For every command, with every operand, and every state in which the command's row of R221 is true: executing it
answers a next state whose FAULT and FAULT_CMD are those before, whatever the bus answers, whatever overflows
and whatever the operand codes. (R221, R223.) -/
def Obligations.MetPreconditionRunsWithoutFault : Prop :=
  ∀ (i : Instr) (s : State), Reference.precondition i s →
    ∃ t, exec i s = .next t ∧ t.fault = s.fault ∧ t.faultCmd = s.faultCmd

/-- Every step that is not the power-on reset answers a state in which every FAULT bit that was set is still set
and, if a fault had been recorded, FAULT_CMD is unchanged. No command clears them, RESET included. (R39, R40,
R227.) -/
def Obligations.FaultBitsAreSticky : Prop :=
  ∀ (s : State), (∀ rest, s.hostQueue ≠ .powerOn :: rest) →
    ∃ t, step s = .next t ∧ s.fault &&& t.fault = s.fault ∧ (s.fault ≠ 0 → t.faultCmd = s.faultCmd)

/-- Every step that is not the power-on reset answers a state whose FAULT is the one before, or the one before with
exactly one of its two bits set in addition. (R226.) -/
def Obligations.OneStepRecordsAtMostOneCause : Prop :=
  ∀ (s : State), (∀ rest, s.hostQueue ≠ .powerOn :: rest) →
    ∃ t, step s = .next t ∧
      (t.fault = s.fault ∨ t.fault = s.fault ||| 0b01 ∨ t.fault = s.fault ||| 0b10)

/-- When the host's next move is the power-on reset, the step answers a state in which PHASE, RESET_SEEN,
TFINE_VALID, TFINE_SRC, OUT_T_SRC, OUT_P_SRC and FAULT read as 0, every other register reads as holding no
value, and BUS_TRACE is empty; State.reset is such a state too. (R43.) -/
def Obligations.PowerOnResetLeavesTheResetState : Prop :=
  ∀ (s : State) (rest : List HostMove), s.hostQueue = .powerOn :: rest →
    ∃ t, step s = .next t ∧
      ∀ u : State, u = t ∨ u = State.reset →
        u.busTrace = [] ∧
          ∀ r : HostReg,
            if r ∈ [.phase, .resetSeen, .tFineValid, .tFineSrc, .outTSrc, .outPSrc, .fault] then
              hostRead r u = .ok (0#(hostWidth r))
            else hostRead r u = .error (.holdsNoValue r)

/-- When the host has no move pending, a step answers the state unchanged. That a step is still defined there is the
model's choice, named in log entry 1. (R224, R250, log entry 1.) -/
def Obligations.BlockWaitsForTheNextWord : Prop :=
  ∀ s : State, s.hostQueue = [] → step s = .next s

/-- The state after reset meets the consistency of the registers and of the bus trace. (R43, R250.) -/
def Obligations.ResetStateMeetsTheInvariants : Prop :=
  RegistersConsistent State.reset ∧ TraceConsistent State.reset

/-- From every state whose registers are consistent, a step answers a next state whose registers are consistent: the
store holds a value from CAL_LOADED on, the shadow from CONFIGURED on, the raw samples in SAMPLING; RESET_SEEN
is 1 only in UNINIT; TFINE_VALID means T_FINE holds a value under a loaded store and a nonzero TFINE_SRC; FAULT
is nonzero exactly when FAULT_CMD holds a value; the result tags are nonzero exactly when a result is held;
ENC_CONFIG bit 1 is 0; some strategy is built in. That these make every register read after its write is the
spec's own inference (in R42). (R21, R25, R33, R39, R140, 10_state.md.) -/
def Obligations.EveryStepKeepsTheRegistersConsistent : Prop :=
  ∀ s : State, RegistersConsistent s → ∃ t, step s = .next t ∧ RegistersConsistent t

/-- From every state whose trace is consistent, a step answers a next state whose trace is: only the transactions of
the table in R70 stand in it, every config write is followed at once by a ctrl_meas write and no ctrl_meas write
stands alone, each calibration read follows a RESET write with no calibration read between, and RESET_SEEN is 1
exactly when such a RESET is pending. (R44, R70, R75, R142, R254, R257.) -/
def Obligations.EveryStepKeepsTheTraceConsistent : Prop :=
  ∀ s : State, TraceConsistent s → ∃ t, step s = .next t ∧ TraceConsistent t

/-- Take two states with consistent registers that agree on everything but what the model stores in registers that
hold no value. A step from each answers next states that again agree so. So the reset values the model chose
where the spec gives none (log entry 2) reach no register that holds a value, no flag and no bus transaction.
That no rule reads a register without a value is the spec's own inference (in R42). (10_state.md, log entry 2.) -/
def Obligations.RegistersWithoutValueAreNeverRead : Prop :=
  ∀ s s' : State, RegistersConsistent s → SameBlock s s' →
    ∃ t t', step s = .next t ∧ step s' = .next t' ∧ SameBlock t t'

/-- Every step answers a state whose build is the one before, whose queue lacks exactly the first move, and whose
answer list lacks exactly the first n bytes for some n of at most 24, by which the model's draw counter has
advanced. These fields are the model's own (log entries 1, 3 and 4). (R6, R63, R64, R81, R264, log entries 1, 3
and 4.) -/
def Obligations.StepTakesItsInputsInOrder : Prop :=
  ∀ s : State, ∃ t n, step s = .next t ∧ t.strategies = s.strategies ∧ t.hostQueue = s.hostQueue.tail ∧
    n ≤ 24 ∧ t.answers = s.answers.drop n ∧ t.draws = s.draws + n

/-- For every start state, list of command words and list of answer bytes, the run of the launch answers a next
state, with no word left and the build unchanged; and the run of a list followed by one word more is the run of
the list, then one step on that word. (R264, R74.) -/
def Obligations.RunOfWordsEndsAfterItsLastWord : Prop :=
  ∀ (s0 : State) (ws : List CmdWord) (oracle : List Byte),
    ∃ t, runWords s0 ws oracle = .next t ∧ t.hostQueue = [] ∧ t.strategies = s0.strategies ∧
      ∀ w : CmdWord, runWords s0 (ws ++ [w]) oracle = step { t with hostQueue := [.command w] }

/-- For every command and state, executing the command answers a next state in which a register, the bus trace or an
input differs from before only if the command is one the spec names for it: the store by LOAD_CALIB, the shadow
by APPLY_CONFIG, the phase by RESET, LOAD_CALIB, APPLY_CONFIG and READ_RAW, and so on for all 29 fields of the
state. (R23, R26, R33, R34, R35, R36, R37, R38, R70, R182.) -/
def Obligations.CommandsWriteOnlyTheirOwnRegisters : Prop :=
  ∀ (i : Instr) (s : State), ∃ t, exec i s = .next t ∧
    (t.phase ≠ s.phase → i = .reset ∨ i = .loadCalib ∨ i = .readRaw ∨ ∃ f, i = .applyConfig f) ∧
    (t.resetSeen ≠ s.resetSeen → i = .reset ∨ i = .loadCalib) ∧
    (t.cal ≠ s.cal → i = .loadCalib) ∧
    (t.shadow ≠ s.shadow → ∃ f, i = .applyConfig f) ∧
    (t.tFine ≠ s.tFine → ∃ a q, i = .compTA a ∨ i = .compTB a ∨ i = .compTC a ∨ i = .compTPA a q ∨
      i = .compTPB a q ∨ i = .compTPC a q) ∧
    (t.tFineValid ≠ s.tFineValid ∨ t.tFineSrc ≠ s.tFineSrc → i = .reset ∨ i = .loadCalib ∨
      ∃ a q, i = .compTA a ∨ i = .compTB a ∨ i = .compTC a ∨ i = .compTPA a q ∨ i = .compTPB a q ∨
        i = .compTPC a q) ∧
    (t.rawP ≠ s.rawP ∨ t.rawT ≠ s.rawT → i = .readRaw) ∧
    (t.statusByte ≠ s.statusByte → i = .readStatus) ∧
    (t.statMeasuring ≠ s.statMeasuring ∨ t.statImUpdate ≠ s.statImUpdate →
      i = .readStatus ∨ ∃ b, i = .decodeStatus b) ∧
    (t.chipId ≠ s.chipId → i = .readChipId) ∧
    (t.encConfig ≠ s.encConfig ∨ t.encCtrlMeas ≠ s.encCtrlMeas →
      ∃ f, i = .encodeConfig f ∨ i = .applyConfig f) ∧
    (t.decFields ≠ s.decFields → ∃ c m, i = .decodeConfig c m) ∧
    (t.outTI32 ≠ s.outTI32 → ∃ a q, i = .compTA a ∨ i = .compTC a ∨ i = .compTPA a q ∨ i = .compTPC a q) ∧
    (t.outTF64 ≠ s.outTF64 → ∃ a q, i = .compTB a ∨ i = .compTPB a q) ∧
    (t.outTSrc ≠ s.outTSrc → ∃ a q, i = .compTA a ∨ i = .compTB a ∨ i = .compTC a ∨ i = .compTPA a q ∨
      i = .compTPB a q ∨ i = .compTPC a q) ∧
    (t.outPU32 ≠ s.outPU32 → ∃ a q, i = .compPA q ∨ i = .compPC q ∨ i = .compTPA a q ∨ i = .compTPC a q) ∧
    (t.outPF64 ≠ s.outPF64 → ∃ a q, i = .compPB q ∨ i = .compTPB a q) ∧
    (t.outPSrc ≠ s.outPSrc → ∃ a q, i = .compPA q ∨ i = .compPB q ∨ i = .compPC q ∨ i = .compTPA a q ∨
      i = .compTPB a q ∨ i = .compTPC a q) ∧
    (t.fault ≠ s.fault ∨ t.faultCmd ≠ s.faultCmd → ¬ Reference.precondition i s) ∧
    (t.busTrace ≠ s.busTrace → i = .reset ∨ i = .loadCalib ∨ i = .readStatus ∨ i = .readRaw ∨
      i = .readChipId ∨ ∃ f, i = .applyConfig f) ∧
    (t.answers ≠ s.answers ∨ t.draws ≠ s.draws →
      i = .loadCalib ∨ i = .readStatus ∨ i = .readRaw ∨ i = .readChipId) ∧
    t.strategies = s.strategies ∧ t.hostQueue = s.hostQueue

/-- For every command and state: where its precondition holds, executing it answers a next state with PHASE as the
table gives it and no fault recorded; where it fails, the next state has FAULT bit 0 set, FAULT_CMD the
command's word if FAULT was 0, and everything else as before. (R140.) -/
def Obligations.PhaseMovesAsTheTableSays : Prop :=
  ∀ (i : Instr) (s : State),
    (Reference.precondition i s →
      ∃ t, exec i s = .next t ∧ t.phase = Reference.phaseAfter i s.phase ∧ t.fault = s.fault) ∧
    (¬ Reference.precondition i s → exec i s = .next (Reference.faulted 0b01 (encode i) s))

/-- For every command and state in which its precondition holds, executing it answers a next state whose trace is
the one before followed by some transactions, and the bytes that those send on the wire, in order, are the row
of R106. The table of R106 is the spec's own inference. (R62, R70, 30_encoding.md.) -/
def Obligations.CommandsSendTheWireBytesOfTheTable : Prop :=
  ∀ (i : Instr) (s : State), Reference.precondition i s →
    ∃ t new, exec i s = .next t ∧ t.busTrace = s.busTrace ++ new ∧ new.flatMap wireOut = Reference.wireBytes i

/-- Where its precondition holds, APPLY_CONFIG with any fields appends to BUS_TRACE exactly a write of 0xF5 and then
a write of 0xF4; and no transaction that any other command appends is a write of either address. (R75.) -/
def Obligations.OnlyApplyWritesConfigAndInOrder : Prop :=
  (∀ (f : ConfigFields) (s : State), s.phase ≠ .uninit →
      ∃ t, exec (.applyConfig f) s = .next t ∧
        t.busTrace = s.busTrace ++
          [.write 0xF5#8 (Reference.configByte f), .write 0xF4#8 (Reference.ctrlMeasByte f)]) ∧
    (∀ (i : Instr) (s : State), (∀ f, i ≠ .applyConfig f) →
      ∃ t new, exec i s = .next t ∧ t.busTrace = s.busTrace ++ new ∧
        ∀ a v, BusEvent.write a v ∈ new → a ≠ 0xF5#8 ∧ a ≠ 0xF4#8)

/-- For every six fields and every state, ENCODE_CONFIG answers the state with ENC_CONFIG = {odr, filter, 0, spi3w}
and ENC_CTRL_MEAS = {os_t, os_p, mode}, everything else unchanged. (R48, R121.) -/
def Obligations.EncodeConfigPacksTheTwoBytes : Prop :=
  ∀ (f : ConfigFields) (s : State), exec (.encodeConfig f) s = .next { s with
    encConfig := ⟨Reference.configByte f, true⟩
    encCtrlMeas := ⟨Reference.ctrlMeasByte f, true⟩ }

/-- For every pair of bytes and every state, DECODE_CONFIG answers the state with DEC_FIELDS[2:0] = ctrl[7:5], [5:3]
= ctrl[4:2], [7:6] = ctrl[1:0], [10:8] = cfg[7:5], [13:11] = cfg[4:2], [14] = cfg[0], everything else unchanged;
cfg[1] is ignored. (R92, R122.) -/
def Obligations.DecodeConfigUnpacksTheTwoBytes : Prop :=
  ∀ (cfg ctrl : Byte) (s : State), ∃ v : BitVec 15,
    exec (.decodeConfig cfg ctrl) s = .next { s with decFields := ⟨v, true⟩ } ∧
      v.extractLsb' 0 3 = ctrl.extractLsb' 5 3 ∧ v.extractLsb' 3 3 = ctrl.extractLsb' 2 3 ∧
      v.extractLsb' 6 2 = ctrl.extractLsb' 0 2 ∧ v.extractLsb' 8 3 = cfg.extractLsb' 5 3 ∧
      v.extractLsb' 11 3 = cfg.extractLsb' 2 3 ∧ v.extractLsb' 14 1 = cfg.extractLsb' 0 1

/-- For every status byte and every state, DECODE_STATUS answers the state with STAT_MEASURING = sb[3] and
STAT_IM_UPDATE = sb[0]; everything else is unchanged, STATUS_BYTE included. (R123.) -/
def Obligations.DecodeStatusWritesTheTwoFlags : Prop :=
  ∀ (sb : Byte) (s : State), exec (.decodeStatus sb) s = .next { s with
    statMeasuring := ⟨decide (sb.toNat / 8 % 2 = 1), true⟩
    statImUpdate := ⟨decide (sb.toNat % 2 = 1), true⟩ }

/-- For every 15-bit field value f and every state, DECODE_CONFIG of the bytes that ENCODE_CONFIG of f makes gives
DEC_FIELDS = f. For every byte pair (c, m) and every state, ENCODE_CONFIG of the fields that DECODE_CONFIG of
(c, m) makes gives (c & 0xFD, m). The laws are the spec's own inference (R125). (R121, R122, R124, 40_codec.md.) -/
def Obligations.ConfigurationCodecRoundTrips : Prop :=
  (∀ (v : BitVec 15) (s : State), ∃ t u, exec (.encodeConfig (fieldsOfBits v)) s = .next t ∧
      exec (.decodeConfig t.encConfig.value t.encCtrlMeas.value) t = .next u ∧ u.decFields = ⟨v, true⟩) ∧
    (∀ (c m : Byte) (s : State), ∃ t u, exec (.decodeConfig c m) s = .next t ∧
      exec (.encodeConfig (fieldsOfBits t.decFields.value)) t = .next u ∧
      u.encConfig = ⟨c &&& 0xFD#8, true⟩ ∧ u.encCtrlMeas = ⟨m, true⟩)

/-- For every two status bytes and every two states: DECODE_STATUS gives them the same STAT_MEASURING exactly when
their bits 3 agree, and the same STAT_IM_UPDATE exactly when their bits 0 agree; so measuring = 1 is reported
whatever im_update is, and the reverse. The independence is the spec's own inference (R126). (R123,
40_codec.md.) -/
def Obligations.StatusFlagsAreIndependent : Prop :=
  ∀ (sb sb' : Byte) (s s' : State), ∃ t t',
    exec (.decodeStatus sb) s = .next t ∧ exec (.decodeStatus sb') s' = .next t' ∧
      (t.statMeasuring = t'.statMeasuring ↔ sb.getLsbD 3 = sb'.getLsbD 3) ∧
      (t.statImUpdate = t'.statImUpdate ↔ sb.getLsbD 0 = sb'.getLsbD 0) ∧
      (sb.getLsbD 3 = true → t.statMeasuring = ⟨true, true⟩) ∧
      (sb.getLsbD 0 = true → t.statImUpdate = ⟨true, true⟩)

/-- From every state RESET answers the state with Write(0xE0, 0xB6) appended to BUS_TRACE, PHASE = UNINIT,
RESET_SEEN = 1, TFINE_VALID = 0 and TFINE_SRC = 0, and everything else unchanged. (R141, R251.) -/
def Obligations.ResetReturnsToUninitAndKeepsTheRest : Prop :=
  ∀ s : State, exec .reset s = .next { s with
    phase := .uninit
    resetSeen := true
    tFineValid := false
    tFineSrc := 0
    busTrace := s.busTrace ++ [.write 0xE0#8 0xB6#8] }

/-- From every state with PHASE = UNINIT and RESET_SEEN = 1, whatever the bus answers, LOAD_CALIB answers the state
with Read(0x88, 24) appended, word i of the store 256 times answer byte 2i+1 plus answer byte 2i, PHASE =
CAL_LOADED, RESET_SEEN = TFINE_VALID = TFINE_SRC = 0, 24 answers used up, and everything else unchanged. (R23,
R66, R142, R143.) -/
def Obligations.LoadCalibDecodesTheTwelveWords : Prop :=
  ∀ s : State, s.phase = .uninit → s.resetSeen = true →
    exec .loadCalib s = .next { s with
      cal := ⟨Reference.calibration (answerByte s), true⟩
      phase := .calLoaded
      resetSeen := false
      tFineValid := false
      tFineSrc := 0
      busTrace := s.busTrace ++ [.read 0x88#8 24 (answerBytes s 24)]
      answers := s.answers.drop 24
      draws := s.draws + 24 }

/-- For every 16-bit word, the unsigned conversions to 32 and 64 bits keep its unsigned value and the signed ones
its two's complement value; for every sample the 32-bit conversion keeps its unsigned value, and the 64-bit
conversion of an i32 its signed value. For every calibration store and each of its twelve words by name, the
i32, the i64 and the binary64 that the formulas take from it have the value of the word: unsigned for DIG_T1 and
DIG_P1, two's complement for the other ten. (R23, R24, R174.) -/
def Obligations.CalibrationWordsHaveTheirSigns : Prop :=
  (∀ x : BitVec 16, (unsigned32 x).toInt = x.toNat ∧ (signed32 x).toInt = x.toInt ∧
      (unsigned64 x).toInt = x.toNat ∧ (signed64 x).toInt = x.toInt) ∧
    (∀ a : BitVec 20, (adc32 a).toInt = a.toNat) ∧ (∀ v : BitVec 32, (widen64 v).toInt = v.toInt) ∧
    (∀ (c : Calib) (w : CalibWord), (calib32 c w).toInt = Reference.wordValue c w ∧
      (calib64 c w).toInt = Reference.wordValue c w ∧
      Reference.f64Value (calibF64 c w) = some (Reference.wordValue c w : ℚ))

/-- From every state in which LOAD_CALIB runs, the state it answers has RESET_SEEN = 0, and a further LOAD_CALIB
there faults. From every state with RESET_SEEN = 0, LOAD_CALIB answers the PRECOND fault with everything else,
the store included, unchanged. RESET_SEEN = 0 is kept by every command but RESET, and by every step whose move
is not a word that decodes to RESET. (R22, R142, R257.) -/
def Obligations.SecondLoadFaultsUntilTheNextReset : Prop :=
  (∀ s : State, s.phase = .uninit → s.resetSeen = true →
      ∃ t, exec .loadCalib s = .next t ∧ t.resetSeen = false ∧
        exec .loadCalib t = .next (Reference.faulted 0b01 0x0200000000000000#64 t)) ∧
    (∀ s : State, s.resetSeen = false →
      exec .loadCalib s = .next (Reference.faulted 0b01 0x0200000000000000#64 s)) ∧
    (∀ (i : Instr) (s : State), i ≠ .reset → s.resetSeen = false →
      ∃ t, exec i s = .next t ∧ t.resetSeen = false) ∧
    (∀ s : State, s.resetSeen = false →
      (∀ w rest, s.hostQueue = .command w :: rest → decode s.strategies w ≠ .ok .reset) →
      ∃ t, step s = .next t ∧ t.resetSeen = false)

/-- From every state with PHASE from CAL_LOADED on, with any six fields, APPLY_CONFIG answers the state with the
shadow equal to the fields, the two encoded bytes in ENC_CONFIG and ENC_CTRL_MEAS and written to 0xF5 and then
0xF4, PHASE CONFIGURED if it was CAL_LOADED and else kept, and everything else unchanged. (R26, R140, R144.) -/
def Obligations.ApplyConfigUpdatesShadowAndSensor : Prop :=
  ∀ (f : ConfigFields) (s : State), s.phase ≠ .uninit →
    exec (.applyConfig f) s = .next { s with
      shadow := ⟨f, true⟩
      encConfig := ⟨Reference.configByte f, true⟩
      encCtrlMeas := ⟨Reference.ctrlMeasByte f, true⟩
      phase := if s.phase = .calLoaded then .configured else s.phase
      busTrace := s.busTrace ++
        [.write 0xF5#8 (Reference.configByte f), .write 0xF4#8 (Reference.ctrlMeasByte f)] }

/-- In PHASE CONFIGURED or SAMPLING, a second APPLY_CONFIG with the same operands answers the state the first one
left, with only BUS_TRACE longer by the same two writes again. This is the spec's own inference (R145). (R144,
41_calibration_and_sequencer.md.) -/
def Obligations.ReapplyingAConfigurationOnlyRepeatsTheWrites : Prop :=
  ∀ (f : ConfigFields) (s : State), s.phase = .configured ∨ s.phase = .sampling →
    ∃ t new, exec (.applyConfig f) s = .next t ∧ t.busTrace = s.busTrace ++ new ∧ new.length = 2 ∧
      exec (.applyConfig f) t = .next { t with busTrace := t.busTrace ++ new }

/-- From every state, whatever the bus answers, READ_STATUS answers the state with Read(0xF3, 1) appended,
STATUS_BYTE the answer, STAT_MEASURING its bit 3, STAT_IM_UPDATE its bit 0, one answer used up, and everything
else unchanged. (R35, R146.) -/
def Obligations.ReadStatusStoresTheByteAndItsFlags : Prop :=
  ∀ s : State, exec .readStatus s = .next { s with
    statusByte := ⟨answerByte s 0, true⟩
    statMeasuring := ⟨decide ((answerByte s 0).toNat / 8 % 2 = 1), true⟩
    statImUpdate := ⟨decide ((answerByte s 0).toNat % 2 = 1), true⟩
    busTrace := s.busTrace ++ [.read 0xF3#8 1 [answerByte s 0]]
    answers := s.answers.drop 1
    draws := s.draws + 1 }

/-- From every state with PHASE CONFIGURED or SAMPLING, whatever the bus answers, READ_RAW answers the state with
Read(0xF7, 6) appended, RAW_P = msb*4096 + lsb*16 + (xlsb >> 4) of the first three bytes, RAW_T the same of the
last three, PHASE SAMPLING, six answers used up, and everything else unchanged. (R51, R147, R148.) -/
def Obligations.ReadRawAssemblesBothSamples : Prop :=
  ∀ s : State, s.phase = .configured ∨ s.phase = .sampling →
    exec .readRaw s = .next { s with
      rawP := ⟨Reference.sample (answerByte s 0) (answerByte s 1) (answerByte s 2), true⟩
      rawT := ⟨Reference.sample (answerByte s 3) (answerByte s 4) (answerByte s 5), true⟩
      phase := .sampling
      busTrace := s.busTrace ++ [.read 0xF7#8 6 (answerBytes s 6)]
      answers := s.answers.drop 6
      draws := s.draws + 6 }

/-- From every state, whatever the bus answers, READ_CHIP_ID answers the state with Read(0xD0, 1) appended, CHIP_ID
the answer, one answer used up, and everything else unchanged. (R36, R149.) -/
def Obligations.ReadChipIdStoresTheByte : Prop :=
  ∀ s : State, exec .readChipId s = .next { s with
    chipId := ⟨answerByte s 0, true⟩
    busTrace := s.busTrace ++ [.read 0xD0#8 1 [answerByte s 0]]
    answers := s.answers.drop 1
    draws := s.draws + 1 }

/-- Where the next answers are all 0xFF, READ_STATUS gives both flags set, READ_CHIP_ID gives 0xFF, READ_RAW (from
CONFIGURED on) gives both samples 0xFFFFF and LOAD_CALIB (after RESET) loads DIG_T1 = DIG_P1 = 65535 and the ten
signed words -1; none records a fault. (R63, R258.) -/
def Obligations.FailedReadsLookLikeData : Prop :=
  ∀ s : State, (∀ k < 24, answerByte s k = 0xFF#8) →
    (∃ t, exec .readStatus s = .next t ∧ t.statMeasuring = ⟨true, true⟩ ∧ t.statImUpdate = ⟨true, true⟩ ∧
        t.fault = s.fault) ∧
    (∃ t, exec .readChipId s = .next t ∧ t.chipId = ⟨0xFF#8, true⟩ ∧ t.fault = s.fault) ∧
    (s.phase = .configured ∨ s.phase = .sampling →
      ∃ t, exec .readRaw s = .next t ∧ t.rawP = ⟨0xFFFFF#20, true⟩ ∧ t.rawT = ⟨0xFFFFF#20, true⟩ ∧
        t.fault = s.fault) ∧
    (s.phase = .uninit → s.resetSeen = true →
      ∃ t, exec .loadCalib s = .next t ∧ t.fault = s.fault ∧ t.cal.hasValue = true ∧
        t.cal.value.digT1.toNat = 65535 ∧ t.cal.value.digP1.toNat = 65535 ∧
        (∀ x ∈ [t.cal.value.digT2, t.cal.value.digT3, t.cal.value.digP2, t.cal.value.digP3, t.cal.value.digP4,
            t.cal.value.digP5, t.cal.value.digP6, t.cal.value.digP7, t.cal.value.digP8, t.cal.value.digP9],
          x.toInt = -1))

/-- For every sample and every state with PHASE from CAL_LOADED on, COMP_T.A answers the state with T_FINE and
OUT_T_I32 as the formula of R176 gives them in plain integers, each operation exact and then reduced into i32,
TFINE_VALID = 1, TFINE_SRC = OUT_T_SRC = 1, and everything else unchanged; COMP_T.C does the same with tag 3.
(R9, R171, R172, R176, R182, R184.) -/
def Obligations.IntegerTemperatureFollowsTheFormula : Prop :=
  ∀ (adcT : BitVec 20) (s : State), s.phase ≠ .uninit →
    exec (.compTA adcT) s = .next { s with
      tFine := ⟨Reference.tFineInt s.cal.value adcT, true⟩
      tFineValid := true
      tFineSrc := 1
      outTI32 := ⟨Reference.tempIntBits s.cal.value adcT, true⟩
      outTSrc := 1 } ∧
    exec (.compTC adcT) s = .next { s with
      tFine := ⟨Reference.tFineInt s.cal.value adcT, true⟩
      tFineValid := true
      tFineSrc := 3
      outTI32 := ⟨Reference.tempIntBits s.cal.value adcT, true⟩
      outTSrc := 3 }

/-- For every sample and every state with PHASE from CAL_LOADED on and TFINE_VALID = 1, COMP_P.A answers the state
with OUT_P_U32 as the formula of R177 gives it from T_FINE in plain integers, each operation exact and then
reduced into i64, division truncating toward zero, OUT_P_SRC = 1, and everything else unchanged. (R9, R171,
R172, R173, R177, R185.) -/
def Obligations.StrategyAPressureFollowsTheFormula : Prop :=
  ∀ (adcP : BitVec 20) (s : State), s.phase ≠ .uninit → s.tFineValid = true →
    exec (.compPA adcP) s = .next { s with
      outPU32 := ⟨Reference.presABits s.cal.value adcP s.tFine.value, true⟩
      outPSrc := 1 }

/-- For every sample and every state with PHASE from CAL_LOADED on and TFINE_VALID = 1, COMP_P.C answers the state
with OUT_P_U32 as the formula of R178 gives it from T_FINE in plain integers, each operation exact and then
reduced into i32 or u32, the branch at 0x80000000 included, OUT_P_SRC = 3, and everything else unchanged. (R9,
R171, R172, R173, R178, R187.) -/
def Obligations.StrategyCPressureFollowsTheFormula : Prop :=
  ∀ (adcP : BitVec 20) (s : State), s.phase ≠ .uninit → s.tFineValid = true →
    exec (.compPC adcP) s = .next { s with
      outPU32 := ⟨Reference.presCBits s.cal.value adcP s.tFine.value, true⟩
      outPSrc := 3 }

/-- For every two samples and every state with PHASE from CAL_LOADED on, whatever TFINE_VALID was, COMP_TP.A answers
the state with the temperature results of R176 and the pressure of R177 from that t_fine, all tags 1; COMP_TP.C
the same with R178 and tags 3; everything else is unchanged. (R176, R177, R178, R188, R190.) -/
def Obligations.CombinedIntegerCompensationChainsTheFormulas : Prop :=
  ∀ (adcT adcP : BitVec 20) (s : State), s.phase ≠ .uninit →
    exec (.compTPA adcT adcP) s = .next { s with
      tFine := ⟨Reference.tFineInt s.cal.value adcT, true⟩
      tFineValid := true
      tFineSrc := 1
      outTI32 := ⟨Reference.tempIntBits s.cal.value adcT, true⟩
      outTSrc := 1
      outPU32 := ⟨Reference.presABits s.cal.value adcP (Reference.tFineInt s.cal.value adcT), true⟩
      outPSrc := 1 } ∧
    exec (.compTPC adcT adcP) s = .next { s with
      tFine := ⟨Reference.tFineInt s.cal.value adcT, true⟩
      tFineValid := true
      tFineSrc := 3
      outTI32 := ⟨Reference.tempIntBits s.cal.value adcT, true⟩
      outTSrc := 3
      outPU32 := ⟨Reference.presCBits s.cal.value adcP (Reference.tFineInt s.cal.value adcT), true⟩
      outPSrc := 3 }

/-- For every sample and every state with PHASE from CAL_LOADED on, COMP_T.B answers the state with T_FINE the
truncated sum of var1 and var2 of R179, OUT_T_F64 the same sum over 5120, TFINE_VALID = 1, TFINE_SRC = OUT_T_SRC
= 2, and everything else unchanged. (R175, R179, R183.) -/
def Obligations.BinaryTemperatureFollowsTheFormula : Prop :=
  ∀ (adcT : BitVec 20) (s : State), s.phase ≠ .uninit →
    let c := s.cal.value
    let a := f64OfInt adcT.toNat
    let t1 := f64OfInt c.digT1.toNat
    let v1 := f64Mul (f64Sub (f64Div a (f64OfInt 16384)) (f64Div t1 (f64OfInt 1024))) (f64OfInt c.digT2.toInt)
    let d := f64Sub (f64Div a (f64OfInt 131072)) (f64Div t1 (f64OfInt 8192))
    let v2 := f64Mul (f64Mul d d) (f64OfInt c.digT3.toInt)
    exec (.compTB adcT) s = .next { s with
      tFine := ⟨truncI32 (f64Add v1 v2), true⟩
      tFineValid := true
      tFineSrc := 2
      outTF64 := ⟨f64Div (f64Add v1 v2) (f64OfInt 5120), true⟩
      outTSrc := 2 }

/-- For every sample and every state with PHASE from CAL_LOADED on and TFINE_VALID = 1, COMP_P.B answers the state
with OUT_P_F64 the value of R180 from T_FINE, +0.0 where the denominator is +0.0 or -0.0, OUT_P_SRC = 2, and
everything else unchanged. (R175, R180, R186, R191.) -/
def Obligations.BinaryPressureFollowsTheFormula : Prop :=
  ∀ (adcP : BitVec 20) (s : State), s.phase ≠ .uninit → s.tFineValid = true →
    let c := s.cal.value
    let tf := s.tFine.value
    let base := f64Sub (f64Div (f64OfInt tf.toInt) (f64OfInt 2)) (f64OfInt 64000)
    let x := f64Div (f64Mul (f64Mul base base) (f64OfInt c.digP6.toInt)) (f64OfInt 32768)
    let x := f64Add x (f64Mul (f64Mul base (f64OfInt c.digP5.toInt)) (f64OfInt 2))
    let x := f64Add (f64Div x (f64OfInt 4)) (f64Mul (f64OfInt c.digP4.toInt) (f64OfInt 65536))
    let y := f64Div (f64Mul (f64Mul (f64OfInt c.digP3.toInt) base) base) (f64OfInt 524288)
    let y := f64Div (f64Add y (f64Mul (f64OfInt c.digP2.toInt) base)) (f64OfInt 524288)
    let den := f64Mul (f64Add (f64OfInt 1) (f64Div y (f64OfInt 32768))) (f64OfInt c.digP1.toNat)
    let p := f64Sub (f64OfInt 1048576) (f64OfInt adcP.toNat)
    let p := f64Div (f64Mul (f64Sub p (f64Div x (f64OfInt 4096))) (f64OfInt 6250)) den
    let y1 := f64Div (f64Mul (f64Mul (f64OfInt c.digP9.toInt) p) p) (f64OfInt 2147483648)
    let y2 := f64Div (f64Mul p (f64OfInt c.digP8.toInt)) (f64OfInt 32768)
    let result := f64Add p (f64Div (f64Add (f64Add y1 y2) (f64OfInt c.digP7.toInt)) (f64OfInt 16))
    exec (.compPB adcP) s = .next { s with
      outPF64 := ⟨if den = 0#64 ∨ den = 0x8000000000000000#64 then 0#64 else result, true⟩
      outPSrc := 2 }

/-- For every two samples and every state with PHASE from CAL_LOADED on, whatever TFINE_VALID was, COMP_TP.B answers
a next state, and it is the one that COMP_T.B and then COMP_P.B answer; the same holds of strategies A and C.
(R170, R188, R189, R190, R192.) -/
def Obligations.CombinedBinaryCompensationIsTheTwoStages : Prop :=
  ∀ (adcT adcP : BitVec 20) (s : State), s.phase ≠ .uninit →
    (∃ t u, exec (.compTB adcT) s = .next t ∧ exec (.compPB adcP) t = .next u ∧
      exec (.compTPB adcT adcP) s = .next u ∧ u.tFineSrc = 2 ∧ u.outTSrc = 2 ∧ u.outPSrc = 2 ∧ u.fault = s.fault) ∧
    (∃ t u, exec (.compTA adcT) s = .next t ∧ exec (.compPA adcP) t = .next u ∧
      exec (.compTPA adcT adcP) s = .next u ∧ u.tFineSrc = 1 ∧ u.outTSrc = 1 ∧ u.outPSrc = 1 ∧ u.fault = s.fault) ∧
    (∃ t u, exec (.compTC adcT) s = .next t ∧ exec (.compPC adcP) t = .next u ∧
      exec (.compTPC adcT adcP) s = .next u ∧ u.tFineSrc = 3 ∧ u.outTSrc = 3 ∧ u.outPSrc = 3 ∧ u.fault = s.fault)

/-- For every sample and every state with PHASE from CAL_LOADED on and TFINE_VALID = 1: where a strategy's pressure
denominator is zero, its COMP_P answers the state with the pressure register exactly 0 (u32 0, or +0.0) and its
tag, and everything else, FAULT included, unchanged. (R177, R178, R180, R191.) -/
def Obligations.ZeroDenominatorGivesExactlyZero : Prop :=
  ∀ (adcP : BitVec 20) (s : State), s.phase ≠ .uninit → s.tFineValid = true →
    (Reference.presADen s.cal.value s.tFine.value.toInt = 0 →
      exec (.compPA adcP) s = .next { s with outPU32 := ⟨0, true⟩, outPSrc := 1 }) ∧
    (Reference.presCDen s.cal.value s.tFine.value.toInt = 0 →
      exec (.compPC adcP) s = .next { s with outPU32 := ⟨0, true⟩, outPSrc := 3 }) ∧
    (Reference.f64Value (presFDenominator s.cal.value s.tFine.value) = some 0 →
      exec (.compPB adcP) s = .next { s with outPF64 := ⟨0, true⟩, outPSrc := 2 })

/-- For every two samples and every state with PHASE from CAL_LOADED on whose DIG_P1 is 0: COMP_TP of each strategy
answers a next state whose pressure register is exactly 0, whose temperature results are those COMP_T answers,
and whose FAULT is unchanged. That DIG_P1 = 0 makes every denominator zero is the spec's own inference (in
R191). (R177, R178, R180, R188, R189, R190, 42_compensation.md.) -/
def Obligations.ZeroDigP1GivesZeroPressureInEveryStrategy : Prop :=
  ∀ (adcT adcP : BitVec 20) (s : State), s.phase ≠ .uninit → s.cal.value.digP1 = 0 →
    (∃ t u, exec (.compTA adcT) s = .next t ∧ exec (.compTPA adcT adcP) s = .next u ∧ u.outPU32 = ⟨0, true⟩ ∧
      u.outTI32 = t.outTI32 ∧ u.tFine = t.tFine ∧ u.fault = s.fault) ∧
    (∃ t u, exec (.compTB adcT) s = .next t ∧ exec (.compTPB adcT adcP) s = .next u ∧ u.outPF64 = ⟨0, true⟩ ∧
      u.outTF64 = t.outTF64 ∧ u.tFine = t.tFine ∧ u.fault = s.fault) ∧
    (∃ t u, exec (.compTC adcT) s = .next t ∧ exec (.compTPC adcT adcP) s = .next u ∧ u.outPU32 = ⟨0, true⟩ ∧
      u.outTI32 = t.outTI32 ∧ u.tFine = t.tFine ∧ u.fault = s.fault)

/-- For every pressure command, every state with PHASE from CAL_LOADED on and TFINE_VALID = 1, and every value in
TFINE_SRC: executing the command with TFINE_SRC set to that value answers the same state as without, but for
TFINE_SRC itself. (R33, R192.) -/
def Obligations.PressureIgnoresWhichStrategyMadeTFine : Prop :=
  ∀ (i : Instr) (q : BitVec 20) (s : State) (src : BitVec 2), s.phase ≠ .uninit → s.tFineValid = true →
    (i = .compPA q ∨ i = .compPB q ∨ i = .compPC q) →
      ∃ t, exec i s = .next t ∧ exec i { s with tFineSrc := src } = .next { t with tFineSrc := src }

/-- For every calibration store, sample and t_fine, the u32 numerator that Strategy C compares with 0x80000000
differs from 0x80000000. So 'exceeds' against 'at least' makes no difference. This is the spec's own inference
(R194). (R178, 42_compensation.md, 90_conflicts.md C3.) -/
def Obligations.StrategyCBranchBoundaryIsUnreachable : Prop :=
  ∀ (c : Calib) (adcP : BitVec 20) (tFine : BitVec 32), presCNumerator c adcP tFine ≠ 0x80000000#32

/-- For every two finite binary64 patterns, the sum and the difference are the exact rational results rounded to
nearest with ties to even, subnormals kept, with the IEEE infinity from the overflow bound on. (R175,
00_scope.md.) -/
def Obligations.BinarySumsAreCorrectlyRounded : Prop :=
  ∀ (x y : F64) (v w : ℚ), Reference.f64Value x = some v → Reference.f64Value y = some w →
    Reference.CorrectlyRounded (v + w) (f64Add x y) ∧ Reference.CorrectlyRounded (v - w) (f64Sub x y)

/-- For every two finite binary64 patterns, the product, and the quotient where the divisor is not zero, are the
exact rational results rounded to nearest with ties to even, subnormals kept, with the IEEE infinity from the
overflow bound on. (R175, 00_scope.md.) -/
def Obligations.BinaryProductsAndQuotientsAreCorrectlyRounded : Prop :=
  ∀ (x y : F64) (v w : ℚ), Reference.f64Value x = some v → Reference.f64Value y = some w →
    Reference.CorrectlyRounded (v * w) (f64Mul x y) ∧
      (w ≠ 0 → Reference.CorrectlyRounded (v / w) (f64Div x y))

/-- For every integer n with |n| < 2^53, f64(n) has the value n. For every finite binary64 pattern whose value v
lies strictly between -2^31 - 1 and 2^31, trunc_i32 gives the integer part of v: the floor of v where v is not
negative, the ceiling where it is negative. (R175, 00_scope.md.) -/
def Obligations.IntegerConversionsAreExact : Prop :=
  (∀ n : ℤ, |n| < 2 ^ 53 → Reference.f64Value (f64OfInt n) = some (n : ℚ)) ∧
    (∀ (x : F64) (v : ℚ), Reference.f64Value x = some v → -2147483649 < v → v < 2147483648 →
      (truncI32 x).toInt = if 0 ≤ v then ⌊v⌋ else ⌈v⌉)

/-- For every calibration store and sample: var1, var2 and their sum in temp_f are finite with |var1| < 2^21, |var2|
< 2^21 and |sum| < 2^22, and t_fine is the integer part of the sum. So the free value of an out-of-range
truncation (log entry 7) never reaches a register. The bounds are the spec's own inference (R194). (R175, R179,
42_compensation.md.) -/
def Obligations.BinaryTFineIsAlwaysInRange : Prop :=
  ∀ (c : Calib) (adcT : BitVec 20), ∃ v1 v2 v : ℚ,
    Reference.f64Value (tempFVar1 c adcT) = some v1 ∧ |v1| < 2 ^ 21 ∧
    Reference.f64Value (tempFVar2 c adcT) = some v2 ∧ |v2| < 2 ^ 21 ∧
    Reference.f64Value (tempFSum c adcT) = some v ∧ |v| < 2 ^ 22 ∧
    (tempF c adcT).1.toInt = if 0 ≤ v then ⌊v⌋ else ⌈v⌉

/-- Oversampling codes 6 and 7 mean what 5 means, power mode 2 what 1 means, and filter codes 5 to 7 what 4 means;
oversampling 0 is a skipped measurement. That mode 1 is forced, and that filter codes 5 to 7 mean 16, is general
knowledge (log entry 8). For every two configurations and every state, ENCODE_CONFIG gives the two the same
ENC_CTRL_MEAS exactly when their OS_T, OS_P and MODE codes agree, and the same ENC_CONFIG exactly when their
ODR, FILTER and SPI3W codes agree, so no alias is replaced by the code it aliases. (R27, R28, R30, R121, R124,
log entry 8.) -/
def Obligations.SensorCodeAliasesAgree : Prop :=
  (oversampling 6 = oversampling 5 ∧ oversampling 7 = oversampling 5 ∧ oversampling 0 = none ∧
      powerMode 2 = powerMode 1 ∧ filterCoefficient 5 = filterCoefficient 4 ∧
      filterCoefficient 6 = filterCoefficient 4 ∧ filterCoefficient 7 = filterCoefficient 4) ∧
    (∀ (f g : ConfigFields) (s : State), ∃ t u,
      exec (.encodeConfig f) s = .next t ∧ exec (.encodeConfig g) s = .next u ∧
        (t.encCtrlMeas = u.encCtrlMeas ↔ f.osT = g.osT ∧ f.osP = g.osP ∧ f.mode = g.mode) ∧
        (t.encConfig = u.encConfig ↔ f.odr = g.odr ∧ f.filter = g.filter ∧ f.spi3w = g.spi3w))

/-- For every choice of numbers, apply, enccfg, deccfg, decstat, and compt, compp and comptp of each strategy are
accepted exactly when each number fits its field, and then give the one command of the form with those numbers
as its operands. The five forms without operands give their commands; apply.default is the word
0x0300_0000_0000_21ED; and init is reset, ldcal and apply.default in that order. (R104, R105.) -/
def Obligations.AssemblerAcceptsExactlyWhatFits : Prop :=
  (∀ a b c d e f : ℕ,
      if a < 8 ∧ b < 8 ∧ c < 4 ∧ d < 8 ∧ e < 8 ∧ f < 2 then
        ∃ g : ConfigFields, assemble (.apply6 a b c d e f) = some [.applyConfig g] ∧
          assemble (.enccfg a b c d e f) = some [.encodeConfig g] ∧ g.osT.toNat = a ∧ g.osP.toNat = b ∧
          g.mode.toNat = c ∧ g.odr.toNat = d ∧ g.filter.toNat = e ∧ g.spi3w.toNat = f
      else assemble (.apply6 a b c d e f) = none ∧ assemble (.enccfg a b c d e f) = none) ∧
    (∀ a b : ℕ,
      if a < 256 ∧ b < 256 then
        ∃ x y : Byte, assemble (.deccfg a b) = some [.decodeConfig x y] ∧ x.toNat = a ∧ y.toNat = b
      else assemble (.deccfg a b) = none) ∧
    (∀ a : ℕ,
      if a < 256 then ∃ x : Byte, assemble (.decstat a) = some [.decodeStatus x] ∧ x.toNat = a
      else assemble (.decstat a) = none) ∧
    (∀ a : ℕ,
      if a < 2 ^ 20 then
        ∃ x : BitVec 20, x.toNat = a ∧ assemble (.compt .a a) = some [.compTA x] ∧
          assemble (.compt .b a) = some [.compTB x] ∧ assemble (.compt .c a) = some [.compTC x] ∧
          assemble (.compp .a a) = some [.compPA x] ∧ assemble (.compp .b a) = some [.compPB x] ∧
          assemble (.compp .c a) = some [.compPC x]
      else ∀ st : Strategy, assemble (.compt st a) = none ∧ assemble (.compp st a) = none) ∧
    (∀ a b : ℕ,
      if a < 2 ^ 20 ∧ b < 2 ^ 20 then
        ∃ x y : BitVec 20, x.toNat = a ∧ y.toNat = b ∧ assemble (.comptp .a a b) = some [.compTPA x y] ∧
          assemble (.comptp .b a b) = some [.compTPB x y] ∧ assemble (.comptp .c a b) = some [.compTPC x y]
      else ∀ st : Strategy, assemble (.comptp st a b) = none) ∧
    assemble .reset = some [.reset] ∧ assemble .ldcal = some [.loadCalib] ∧
    assemble .rdstat = some [.readStatus] ∧ assemble .rdraw = some [.readRaw] ∧
    assemble .rdid = some [.readChipId] ∧
    (assemble .applyDefault).map (List.map encode) = some [0x03000000000021ED#64] ∧
    (assemble .init).map (List.map encode) =
      some [0x0100000000000000#64, 0x0200000000000000#64, 0x03000000000021ED#64]

/-- RESET from every state, and LOAD_CALIB from every state in which it runs, answer a state with TFINE_VALID = 0.
From every state with TFINE_VALID = 0, each pressure command answers the PRECOND fault with everything else
unchanged. TFINE_VALID = 0 is kept by every command but the six that compute a temperature, and by every step
whose move is not a word that decodes to one of these. Each of these six makes TFINE_VALID 1 from every state
with PHASE from CAL_LOADED on. (R33, R40, R221, R224, R256.) -/
def Obligations.PressureWaitsForATemperature : Prop :=
  (∀ s : State, ∃ t, exec .reset s = .next t ∧ t.tFineValid = false) ∧
    (∀ s : State, s.phase = .uninit → s.resetSeen = true →
      ∃ t, exec .loadCalib s = .next t ∧ t.tFineValid = false) ∧
    (∀ (s : State) (q : BitVec 20), s.tFineValid = false →
      exec (.compPA q) s = .next (Reference.faulted 0b01 (encode (.compPA q)) s) ∧
      exec (.compPB q) s = .next (Reference.faulted 0b01 (encode (.compPB q)) s) ∧
      exec (.compPC q) s = .next (Reference.faulted 0b01 (encode (.compPC q)) s)) ∧
    (∀ (i : Instr) (s : State), Reference.isTemperatureCommand i = false → s.tFineValid = false →
      ∃ t, exec i s = .next t ∧ t.tFineValid = false) ∧
    (∀ s : State, s.tFineValid = false →
      (∀ w rest i, s.hostQueue = .command w :: rest → decode s.strategies w = .ok i →
        Reference.isTemperatureCommand i = false) →
      ∃ t, step s = .next t ∧ t.tFineValid = false) ∧
    (∀ (i : Instr) (s : State), Reference.isTemperatureCommand i = true → s.phase ≠ .uninit →
      ∃ t, exec i s = .next t ∧ t.tFineValid = true)

/-- For every state and every name in the model's list of host-readable registers (those of 10_state.md Part 1 but
for BUS_TRACE, which is not among the names: the model's reading, log entry 14): where that register holds a
value, the host read answers it, bit for bit at the register's width (PHASE in the encoding of R21), and where
it holds none, the read has no answer (R42). That two's complement and binary64 registers are read as their bit
patterns is the model's reading too (log entry 14), and so is the one mark of holding a value that the twelve
calibration words share, and the one that the six fields of the shadow share (log entry 9). A read is a function
of the state and changes nothing (R42, R81). (R21, R42, R81, 10_state.md, log entry 9, log entry 14.) -/
def Obligations.HostReadAnswersTheNamedRegister : Prop :=
  ∀ (s : State) (r : HostReg),
    match Reference.heldNumber r s with
    | some n => ∃ v, hostRead r s = .ok v ∧ v.toNat = n
    | none => hostRead r s = .error (.holdsNoValue r)

/-- For every two finite binary64 patterns x and y with values v and w: where v + w = 0 the sum is -0 if both signs
are set and else +0; where v - w = 0 the difference is -0 if the sign of x is set and that of y is not, and else
+0. The sign of the product is the exclusive or of the two signs, whether the product is zero, subnormal, normal
or an infinity, and so is the sign of the quotient where w is not zero. (R175, 00_scope.md.) -/
def Obligations.BinaryZerosAndSignsFollowIeee : Prop :=
  ∀ (x y : F64) (v w : ℚ), Reference.f64Value x = some v → Reference.f64Value y = some w →
    (v + w = 0 → f64Add x y =
      if x.getLsbD 63 = true ∧ y.getLsbD 63 = true then 0x8000000000000000#64 else 0#64) ∧
    (v - w = 0 → f64Sub x y =
      if x.getLsbD 63 = true ∧ y.getLsbD 63 = false then 0x8000000000000000#64 else 0#64) ∧
    (f64Mul x y).getLsbD 63 = (x.getLsbD 63 ^^ y.getLsbD 63) ∧
    (w ≠ 0 → (f64Div x y).getLsbD 63 = (x.getLsbD 63 ^^ y.getLsbD 63))
end

