-- ==== Sys2Proof/Laws/Decode.lean ====
section
/-! SUPPORT. What a decoded word is, and the fields of an encoded one. -/

namespace Sys2Proof

/-- Everything a successful decoding says (R100): the opcode names the command, its strategy is built in and its
reserved bits are 0. -/
theorem decode_eq_ok_iff (p : StrategySet) (w : CmdWord) (i : Instr) :
    decode p w = .ok i ↔
      candidate w = some i ∧ i.wellFormed p = true ∧ w &&& reservedMask i.format = 0#64 := by
  unfold decode
  cases h : candidate w with
  | none => simp
  | some j =>
    by_cases hw : j.wellFormed p = true <;> by_cases hr : w &&& reservedMask j.format = 0#64 <;>
      simp [hw, hr] <;> rintro rfl <;> simp_all

/-- The fields of the CF layout come back from it (R92). -/
theorem fieldsOfBits_bitsOfFields (f : ConfigFields) : fieldsOfBits (bitsOfFields f) = f := by
  obtain ⟨a, b, c, d, e, g⟩ := f
  simp only [fieldsOfBits, bitsOfFields, ConfigFields.mk.injEq]
  refine ⟨?_, ?_, ?_, ?_, ?_, ?_⟩ <;>
    (ext i hi; simp only [BitVec.getElem_extractLsb', BitVec.getLsbD_append]; grind)

/-- Every 15-bit value is the layout of its fields (R92). -/
theorem bitsOfFields_fieldsOfBits (v : BitVec 15) : bitsOfFields (fieldsOfBits v) = v := by
  ext i hi
  simp only [fieldsOfBits, bitsOfFields]
  grind

/-- The opcode of an encoded command (R90). -/
theorem opcodeOf_encode (i : Instr) : opcodeOf (encode i) = i.opcode := by
  ext k hk
  simp only [opcodeOf, encode, BitVec.getElem_extractLsb', BitVec.getLsbD_append]
  grind

end Sys2Proof
end

