-- ==== Sys2Proof/Laws/Float64.lean ====
section
/-! SUPPORT. The rounding of binary64 results, said once: what `nearestEven`, `floorLog2` and `roundMagnitude` give. -/

namespace Sys2Proof.Machine

/-- `nearestEven` is within half a unit (R10). -/
theorem nearestEven_spec (n : ℕ) {d : ℕ} (hd : 0 < d) :
    2 * |((nearestEven n d : ℕ) : ℚ) - n / d| ≤ 1 ∧
      (2 * |((nearestEven n d : ℕ) : ℚ) - n / d| = 1 → nearestEven n d % 2 = 0) := by
  have hdq : (0 : ℚ) < d := by exact_mod_cast hd
  have hdiv : (n : ℚ) / d = (n / d : ℕ) + ((n % d : ℕ) : ℚ) / d := by
    field_simp
    have := Nat.div_add_mod n d
    exact_mod_cast (by linarith [this] : n = d * (n / d) + n % d)
  have hr : (n % d : ℕ) < d := Nat.mod_lt _ hd
  set q := n / d with hq
  set r := n % d with hrdef
  have hrq : (0 : ℚ) ≤ (r : ℚ) / d := by positivity
  rw [hdiv]
  unfold nearestEven
  simp only [← hq, ← hrdef]
  split_ifs with h1 h2
  · have : (r : ℚ) / d < 1 / 2 := by
      rw [div_lt_iff₀ hdq]; have : (2 : ℚ) * r < d := by exact_mod_cast h1
      linarith
    have e : ((q : ℕ) : ℚ) - ((q : ℕ) + (r : ℚ) / d) = -((r : ℚ) / d) := by ring
    rw [e, abs_neg, abs_of_nonneg hrq]
    constructor
    · linarith
    · intro h; linarith
  · have hlo : 1 / 2 < (r : ℚ) / d := by
      rw [lt_div_iff₀ hdq]; have : (d : ℚ) < 2 * r := by exact_mod_cast h2
      linarith
    have hhi : (r : ℚ) / d < 1 := by
      rw [div_lt_iff₀ hdq]; have : (r : ℚ) < d := by exact_mod_cast hr
      linarith
    have e : ((q + 1 : ℕ) : ℚ) - ((q : ℕ) + (r : ℚ) / d) = 1 - (r : ℚ) / d := by push_cast; ring
    rw [e, abs_of_nonneg (by linarith)]
    constructor
    · linarith
    · intro h; linarith
  · have hh : 2 * r = d := by omega
    have hhalf : (r : ℚ) / d = 1 / 2 := by
      have : (2 : ℚ) * r = d := by exact_mod_cast hh
      field_simp; linarith
    rw [hhalf]
    rcases Nat.mod_two_eq_zero_or_one q with h0 | h0
    · rw [h0]; norm_num; exact h0
    · rw [h0]; norm_num; omega

/-- `floorLog2` is the binary exponent of a positive fraction. -/
theorem floorLog2_spec {n d : ℕ} (hn : 0 < n) (hd : 0 < d) :
    (2 : ℚ) ^ floorLog2 n d ≤ n / d ∧ (n : ℚ) / d < 2 ^ (floorLog2 n d + 1) := by
  have hdq : (0 : ℚ) < d := by exact_mod_cast hd
  have hn1 : (2 : ℚ) ^ (n.log2 : ℤ) ≤ n := by
    rw [zpow_natCast]; exact_mod_cast Nat.log2_self_le hn.ne'
  have hn2 : (n : ℚ) < 2 ^ ((n.log2 : ℤ) + 1) := by
    have := @Nat.lt_log2_self n
    rw [show ((n.log2 : ℤ) + 1) = ((n.log2 + 1 : ℕ) : ℤ) by push_cast; ring, zpow_natCast]
    exact_mod_cast this
  have hd1 : (2 : ℚ) ^ (d.log2 : ℤ) ≤ d := by
    rw [zpow_natCast]; exact_mod_cast Nat.log2_self_le hd.ne'
  have hd2 : (d : ℚ) < 2 ^ ((d.log2 : ℤ) + 1) := by
    have := @Nat.lt_log2_self d
    rw [show ((d.log2 : ℤ) + 1) = ((d.log2 + 1 : ℕ) : ℤ) by push_cast; ring, zpow_natCast]
    exact_mod_cast this
  have two : (2 : ℚ) ≠ 0 := by norm_num
  set k : ℤ := (n.log2 : ℤ) - (d.log2 : ℤ) with hk
  have up : (n : ℚ) / d < 2 ^ (k + 1) := by
    rw [div_lt_iff₀ hdq]
    calc (n : ℚ) < 2 ^ ((n.log2 : ℤ) + 1) := hn2
      _ = 2 ^ (k + 1) * 2 ^ (d.log2 : ℤ) := by rw [← zpow_add₀ two]; congr 1; omega
      _ ≤ 2 ^ (k + 1) * d := by gcongr
  have lo : (2 : ℚ) ^ (k - 1) ≤ n / d := by
    rw [le_div_iff₀ hdq]
    calc (2 : ℚ) ^ (k - 1) * d ≤ 2 ^ (k - 1) * 2 ^ ((d.log2 : ℤ) + 1) := by gcongr
      _ = 2 ^ (n.log2 : ℤ) := by rw [← zpow_add₀ two]; congr 1; omega
      _ ≤ n := hn1
  have test : d * 2 ^ k.toNat ≤ n * 2 ^ (-k).toNat ↔ (2 : ℚ) ^ k ≤ n / d := by
    rw [le_div_iff₀ hdq]
    have hs : (2 : ℚ) ^ k * 2 ^ (-k).toNat = 2 ^ k.toNat := by
      rw [← zpow_natCast, ← zpow_natCast, ← zpow_add₀ two]; congr 1; omega
    have hp : (0 : ℚ) < 2 ^ (-k).toNat := by positivity
    rw [← Nat.cast_le (α := ℚ)]
    push_cast
    rw [← hs]
    constructor
    · intro h
      have : ((2 : ℚ) ^ k * d) * 2 ^ (-k).toNat ≤ n * 2 ^ (-k).toNat := by linarith
      exact le_of_mul_le_mul_right this hp
    · intro h
      have := mul_le_mul_of_nonneg_right h hp.le
      linarith
  unfold floorLog2
  simp only [← hk]
  split_ifs with h
  · exact ⟨test.mp h, up⟩
  · refine ⟨lo, ?_⟩
    rw [sub_add_cancel]
    exact not_le.mp (fun hc => h (test.mpr hc))

end Sys2Proof.Machine
end

