-- ==== Sys2Proof/Laws/HostPort.lean ====
section
/-! SUPPORT. What a host read of a register answers (R42). -/

namespace Sys2Proof.Machine

variable {α : Type} {w : Nat}

/-- A register that holds a value reads as its bits. -/
theorem readReg_of_held (name : HostReg) {r : Reg α} (bits : α → BitVec w) (h : r.hasValue = true) :
    readReg name r bits = .ok (bits r.value) := by simp [readReg, h]

/-- A register that holds no value has no answer. -/
theorem readReg_of_unheld (name : HostReg) {r : Reg α} (bits : α → BitVec w) (h : r.hasValue = false) :
    readReg name r bits = .error (.holdsNoValue name) := by simp [readReg, h]

end Sys2Proof.Machine
end

