-- ==== Sys2Proof/Laws/Operands.lean ====
section
/-! SUPPORT. How each word of the calibration store enters a formula: two as unsigned words, ten as signed ones (R24). -/

namespace Sys2Proof.Machine

@[simp] theorem calib32_t1 (c : Calib) : calib32 c .t1 = unsigned32 c.digT1 := rfl
@[simp] theorem calib32_t2 (c : Calib) : calib32 c .t2 = signed32 c.digT2 := rfl
@[simp] theorem calib32_t3 (c : Calib) : calib32 c .t3 = signed32 c.digT3 := rfl
@[simp] theorem calib32_p1 (c : Calib) : calib32 c .p1 = unsigned32 c.digP1 := rfl
@[simp] theorem calib32_p2 (c : Calib) : calib32 c .p2 = signed32 c.digP2 := rfl
@[simp] theorem calib32_p3 (c : Calib) : calib32 c .p3 = signed32 c.digP3 := rfl
@[simp] theorem calib32_p4 (c : Calib) : calib32 c .p4 = signed32 c.digP4 := rfl
@[simp] theorem calib32_p5 (c : Calib) : calib32 c .p5 = signed32 c.digP5 := rfl
@[simp] theorem calib32_p6 (c : Calib) : calib32 c .p6 = signed32 c.digP6 := rfl
@[simp] theorem calib32_p7 (c : Calib) : calib32 c .p7 = signed32 c.digP7 := rfl
@[simp] theorem calib32_p8 (c : Calib) : calib32 c .p8 = signed32 c.digP8 := rfl
@[simp] theorem calib32_p9 (c : Calib) : calib32 c .p9 = signed32 c.digP9 := rfl

@[simp] theorem calib64_t1 (c : Calib) : calib64 c .t1 = unsigned64 c.digT1 := rfl
@[simp] theorem calib64_t2 (c : Calib) : calib64 c .t2 = signed64 c.digT2 := rfl
@[simp] theorem calib64_t3 (c : Calib) : calib64 c .t3 = signed64 c.digT3 := rfl
@[simp] theorem calib64_p1 (c : Calib) : calib64 c .p1 = unsigned64 c.digP1 := rfl
@[simp] theorem calib64_p2 (c : Calib) : calib64 c .p2 = signed64 c.digP2 := rfl
@[simp] theorem calib64_p3 (c : Calib) : calib64 c .p3 = signed64 c.digP3 := rfl
@[simp] theorem calib64_p4 (c : Calib) : calib64 c .p4 = signed64 c.digP4 := rfl
@[simp] theorem calib64_p5 (c : Calib) : calib64 c .p5 = signed64 c.digP5 := rfl
@[simp] theorem calib64_p6 (c : Calib) : calib64 c .p6 = signed64 c.digP6 := rfl
@[simp] theorem calib64_p7 (c : Calib) : calib64 c .p7 = signed64 c.digP7 := rfl
@[simp] theorem calib64_p8 (c : Calib) : calib64 c .p8 = signed64 c.digP8 := rfl
@[simp] theorem calib64_p9 (c : Calib) : calib64 c .p9 = signed64 c.digP9 := rfl

@[simp] theorem calibNumber_t1 (c : Calib) : calibNumber c .t1 = (c.digT1).toNat := rfl
@[simp] theorem calibNumber_t2 (c : Calib) : calibNumber c .t2 = (c.digT2).toInt := rfl
@[simp] theorem calibNumber_t3 (c : Calib) : calibNumber c .t3 = (c.digT3).toInt := rfl
@[simp] theorem calibNumber_p1 (c : Calib) : calibNumber c .p1 = (c.digP1).toNat := rfl
@[simp] theorem calibNumber_p2 (c : Calib) : calibNumber c .p2 = (c.digP2).toInt := rfl
@[simp] theorem calibNumber_p3 (c : Calib) : calibNumber c .p3 = (c.digP3).toInt := rfl
@[simp] theorem calibNumber_p4 (c : Calib) : calibNumber c .p4 = (c.digP4).toInt := rfl
@[simp] theorem calibNumber_p5 (c : Calib) : calibNumber c .p5 = (c.digP5).toInt := rfl
@[simp] theorem calibNumber_p6 (c : Calib) : calibNumber c .p6 = (c.digP6).toInt := rfl
@[simp] theorem calibNumber_p7 (c : Calib) : calibNumber c .p7 = (c.digP7).toInt := rfl
@[simp] theorem calibNumber_p8 (c : Calib) : calibNumber c .p8 = (c.digP8).toInt := rfl
@[simp] theorem calibNumber_p9 (c : Calib) : calibNumber c .p9 = (c.digP9).toInt := rfl

@[simp] theorem calibF64_t1 (c : Calib) : calibF64 c .t1 = f64OfInt (c.digT1).toNat := rfl
@[simp] theorem calibF64_t2 (c : Calib) : calibF64 c .t2 = f64OfInt (c.digT2).toInt := rfl
@[simp] theorem calibF64_t3 (c : Calib) : calibF64 c .t3 = f64OfInt (c.digT3).toInt := rfl
@[simp] theorem calibF64_p1 (c : Calib) : calibF64 c .p1 = f64OfInt (c.digP1).toNat := rfl
@[simp] theorem calibF64_p2 (c : Calib) : calibF64 c .p2 = f64OfInt (c.digP2).toInt := rfl
@[simp] theorem calibF64_p3 (c : Calib) : calibF64 c .p3 = f64OfInt (c.digP3).toInt := rfl
@[simp] theorem calibF64_p4 (c : Calib) : calibF64 c .p4 = f64OfInt (c.digP4).toInt := rfl
@[simp] theorem calibF64_p5 (c : Calib) : calibF64 c .p5 = f64OfInt (c.digP5).toInt := rfl
@[simp] theorem calibF64_p6 (c : Calib) : calibF64 c .p6 = f64OfInt (c.digP6).toInt := rfl
@[simp] theorem calibF64_p7 (c : Calib) : calibF64 c .p7 = f64OfInt (c.digP7).toInt := rfl
@[simp] theorem calibF64_p8 (c : Calib) : calibF64 c .p8 = f64OfInt (c.digP8).toInt := rfl
@[simp] theorem calibF64_p9 (c : Calib) : calibF64 c .p9 = f64OfInt (c.digP9).toInt := rfl

end Sys2Proof.Machine
end

