-- ==== Sys2Proof/Laws/State.lean ====
section
/-! SUPPORT. What each shared update does to each field of the state, field by field, so that no proof about a command
unfolds a record update. -/

namespace Sys2Proof.Machine

/-! ### The fault procedure (R224) -/

@[simp] theorem raiseFault_phase (c : FaultCause) (w : CmdWord) (s : State) : (raiseFault c w s).phase = s.phase := rfl
@[simp] theorem raiseFault_resetSeen (c : FaultCause) (w : CmdWord) (s : State) : (raiseFault c w s).resetSeen = s.resetSeen := rfl
@[simp] theorem raiseFault_cal (c : FaultCause) (w : CmdWord) (s : State) : (raiseFault c w s).cal = s.cal := rfl
@[simp] theorem raiseFault_shadow (c : FaultCause) (w : CmdWord) (s : State) : (raiseFault c w s).shadow = s.shadow := rfl
@[simp] theorem raiseFault_tFine (c : FaultCause) (w : CmdWord) (s : State) : (raiseFault c w s).tFine = s.tFine := rfl
@[simp] theorem raiseFault_tFineValid (c : FaultCause) (w : CmdWord) (s : State) : (raiseFault c w s).tFineValid = s.tFineValid := rfl
@[simp] theorem raiseFault_tFineSrc (c : FaultCause) (w : CmdWord) (s : State) : (raiseFault c w s).tFineSrc = s.tFineSrc := rfl
@[simp] theorem raiseFault_rawP (c : FaultCause) (w : CmdWord) (s : State) : (raiseFault c w s).rawP = s.rawP := rfl
@[simp] theorem raiseFault_rawT (c : FaultCause) (w : CmdWord) (s : State) : (raiseFault c w s).rawT = s.rawT := rfl
@[simp] theorem raiseFault_statusByte (c : FaultCause) (w : CmdWord) (s : State) : (raiseFault c w s).statusByte = s.statusByte := rfl
@[simp] theorem raiseFault_statMeasuring (c : FaultCause) (w : CmdWord) (s : State) : (raiseFault c w s).statMeasuring = s.statMeasuring := rfl
@[simp] theorem raiseFault_statImUpdate (c : FaultCause) (w : CmdWord) (s : State) : (raiseFault c w s).statImUpdate = s.statImUpdate := rfl
@[simp] theorem raiseFault_chipId (c : FaultCause) (w : CmdWord) (s : State) : (raiseFault c w s).chipId = s.chipId := rfl
@[simp] theorem raiseFault_encConfig (c : FaultCause) (w : CmdWord) (s : State) : (raiseFault c w s).encConfig = s.encConfig := rfl
@[simp] theorem raiseFault_encCtrlMeas (c : FaultCause) (w : CmdWord) (s : State) : (raiseFault c w s).encCtrlMeas = s.encCtrlMeas := rfl
@[simp] theorem raiseFault_decFields (c : FaultCause) (w : CmdWord) (s : State) : (raiseFault c w s).decFields = s.decFields := rfl
@[simp] theorem raiseFault_outTI32 (c : FaultCause) (w : CmdWord) (s : State) : (raiseFault c w s).outTI32 = s.outTI32 := rfl
@[simp] theorem raiseFault_outPU32 (c : FaultCause) (w : CmdWord) (s : State) : (raiseFault c w s).outPU32 = s.outPU32 := rfl
@[simp] theorem raiseFault_outTF64 (c : FaultCause) (w : CmdWord) (s : State) : (raiseFault c w s).outTF64 = s.outTF64 := rfl
@[simp] theorem raiseFault_outPF64 (c : FaultCause) (w : CmdWord) (s : State) : (raiseFault c w s).outPF64 = s.outPF64 := rfl
@[simp] theorem raiseFault_outTSrc (c : FaultCause) (w : CmdWord) (s : State) : (raiseFault c w s).outTSrc = s.outTSrc := rfl
@[simp] theorem raiseFault_outPSrc (c : FaultCause) (w : CmdWord) (s : State) : (raiseFault c w s).outPSrc = s.outPSrc := rfl
@[simp] theorem raiseFault_fault (c : FaultCause) (w : CmdWord) (s : State) : (raiseFault c w s).fault = s.fault ||| faultBit c := rfl
@[simp] theorem raiseFault_faultCmd (c : FaultCause) (w : CmdWord) (s : State) : (raiseFault c w s).faultCmd = if s.fault = 0 then .of w else s.faultCmd := rfl
@[simp] theorem raiseFault_busTrace (c : FaultCause) (w : CmdWord) (s : State) : (raiseFault c w s).busTrace = s.busTrace := rfl
@[simp] theorem raiseFault_strategies (c : FaultCause) (w : CmdWord) (s : State) : (raiseFault c w s).strategies = s.strategies := rfl
@[simp] theorem raiseFault_hostQueue (c : FaultCause) (w : CmdWord) (s : State) : (raiseFault c w s).hostQueue = s.hostQueue := rfl
@[simp] theorem raiseFault_answers (c : FaultCause) (w : CmdWord) (s : State) : (raiseFault c w s).answers = s.answers := rfl
@[simp] theorem raiseFault_draws (c : FaultCause) (w : CmdWord) (s : State) : (raiseFault c w s).draws = s.draws := rfl

/-! ### One read transaction (R64) -/

@[simp] theorem busRead_phase (a : Byte) (n : Nat) (s : State) : (busRead a n s).phase = s.phase := rfl
@[simp] theorem busRead_resetSeen (a : Byte) (n : Nat) (s : State) : (busRead a n s).resetSeen = s.resetSeen := rfl
@[simp] theorem busRead_cal (a : Byte) (n : Nat) (s : State) : (busRead a n s).cal = s.cal := rfl
@[simp] theorem busRead_shadow (a : Byte) (n : Nat) (s : State) : (busRead a n s).shadow = s.shadow := rfl
@[simp] theorem busRead_tFine (a : Byte) (n : Nat) (s : State) : (busRead a n s).tFine = s.tFine := rfl
@[simp] theorem busRead_tFineValid (a : Byte) (n : Nat) (s : State) : (busRead a n s).tFineValid = s.tFineValid := rfl
@[simp] theorem busRead_tFineSrc (a : Byte) (n : Nat) (s : State) : (busRead a n s).tFineSrc = s.tFineSrc := rfl
@[simp] theorem busRead_rawP (a : Byte) (n : Nat) (s : State) : (busRead a n s).rawP = s.rawP := rfl
@[simp] theorem busRead_rawT (a : Byte) (n : Nat) (s : State) : (busRead a n s).rawT = s.rawT := rfl
@[simp] theorem busRead_statusByte (a : Byte) (n : Nat) (s : State) : (busRead a n s).statusByte = s.statusByte := rfl
@[simp] theorem busRead_statMeasuring (a : Byte) (n : Nat) (s : State) : (busRead a n s).statMeasuring = s.statMeasuring := rfl
@[simp] theorem busRead_statImUpdate (a : Byte) (n : Nat) (s : State) : (busRead a n s).statImUpdate = s.statImUpdate := rfl
@[simp] theorem busRead_chipId (a : Byte) (n : Nat) (s : State) : (busRead a n s).chipId = s.chipId := rfl
@[simp] theorem busRead_encConfig (a : Byte) (n : Nat) (s : State) : (busRead a n s).encConfig = s.encConfig := rfl
@[simp] theorem busRead_encCtrlMeas (a : Byte) (n : Nat) (s : State) : (busRead a n s).encCtrlMeas = s.encCtrlMeas := rfl
@[simp] theorem busRead_decFields (a : Byte) (n : Nat) (s : State) : (busRead a n s).decFields = s.decFields := rfl
@[simp] theorem busRead_outTI32 (a : Byte) (n : Nat) (s : State) : (busRead a n s).outTI32 = s.outTI32 := rfl
@[simp] theorem busRead_outPU32 (a : Byte) (n : Nat) (s : State) : (busRead a n s).outPU32 = s.outPU32 := rfl
@[simp] theorem busRead_outTF64 (a : Byte) (n : Nat) (s : State) : (busRead a n s).outTF64 = s.outTF64 := rfl
@[simp] theorem busRead_outPF64 (a : Byte) (n : Nat) (s : State) : (busRead a n s).outPF64 = s.outPF64 := rfl
@[simp] theorem busRead_outTSrc (a : Byte) (n : Nat) (s : State) : (busRead a n s).outTSrc = s.outTSrc := rfl
@[simp] theorem busRead_outPSrc (a : Byte) (n : Nat) (s : State) : (busRead a n s).outPSrc = s.outPSrc := rfl
@[simp] theorem busRead_fault (a : Byte) (n : Nat) (s : State) : (busRead a n s).fault = s.fault := rfl
@[simp] theorem busRead_faultCmd (a : Byte) (n : Nat) (s : State) : (busRead a n s).faultCmd = s.faultCmd := rfl
@[simp] theorem busRead_busTrace (a : Byte) (n : Nat) (s : State) : (busRead a n s).busTrace = s.busTrace ++ [.read a n (answerBytes s n)] := rfl
@[simp] theorem busRead_strategies (a : Byte) (n : Nat) (s : State) : (busRead a n s).strategies = s.strategies := rfl
@[simp] theorem busRead_hostQueue (a : Byte) (n : Nat) (s : State) : (busRead a n s).hostQueue = s.hostQueue := rfl
@[simp] theorem busRead_answers (a : Byte) (n : Nat) (s : State) : (busRead a n s).answers = s.answers.drop n := rfl
@[simp] theorem busRead_draws (a : Byte) (n : Nat) (s : State) : (busRead a n s).draws = s.draws + n := rfl

/-! ### One write transaction (R65) -/

@[simp] theorem busWrite_phase (a v : Byte) (s : State) : (busWrite a v s).phase = s.phase := rfl
@[simp] theorem busWrite_resetSeen (a v : Byte) (s : State) : (busWrite a v s).resetSeen = s.resetSeen := rfl
@[simp] theorem busWrite_cal (a v : Byte) (s : State) : (busWrite a v s).cal = s.cal := rfl
@[simp] theorem busWrite_shadow (a v : Byte) (s : State) : (busWrite a v s).shadow = s.shadow := rfl
@[simp] theorem busWrite_tFine (a v : Byte) (s : State) : (busWrite a v s).tFine = s.tFine := rfl
@[simp] theorem busWrite_tFineValid (a v : Byte) (s : State) : (busWrite a v s).tFineValid = s.tFineValid := rfl
@[simp] theorem busWrite_tFineSrc (a v : Byte) (s : State) : (busWrite a v s).tFineSrc = s.tFineSrc := rfl
@[simp] theorem busWrite_rawP (a v : Byte) (s : State) : (busWrite a v s).rawP = s.rawP := rfl
@[simp] theorem busWrite_rawT (a v : Byte) (s : State) : (busWrite a v s).rawT = s.rawT := rfl
@[simp] theorem busWrite_statusByte (a v : Byte) (s : State) : (busWrite a v s).statusByte = s.statusByte := rfl
@[simp] theorem busWrite_statMeasuring (a v : Byte) (s : State) : (busWrite a v s).statMeasuring = s.statMeasuring := rfl
@[simp] theorem busWrite_statImUpdate (a v : Byte) (s : State) : (busWrite a v s).statImUpdate = s.statImUpdate := rfl
@[simp] theorem busWrite_chipId (a v : Byte) (s : State) : (busWrite a v s).chipId = s.chipId := rfl
@[simp] theorem busWrite_encConfig (a v : Byte) (s : State) : (busWrite a v s).encConfig = s.encConfig := rfl
@[simp] theorem busWrite_encCtrlMeas (a v : Byte) (s : State) : (busWrite a v s).encCtrlMeas = s.encCtrlMeas := rfl
@[simp] theorem busWrite_decFields (a v : Byte) (s : State) : (busWrite a v s).decFields = s.decFields := rfl
@[simp] theorem busWrite_outTI32 (a v : Byte) (s : State) : (busWrite a v s).outTI32 = s.outTI32 := rfl
@[simp] theorem busWrite_outPU32 (a v : Byte) (s : State) : (busWrite a v s).outPU32 = s.outPU32 := rfl
@[simp] theorem busWrite_outTF64 (a v : Byte) (s : State) : (busWrite a v s).outTF64 = s.outTF64 := rfl
@[simp] theorem busWrite_outPF64 (a v : Byte) (s : State) : (busWrite a v s).outPF64 = s.outPF64 := rfl
@[simp] theorem busWrite_outTSrc (a v : Byte) (s : State) : (busWrite a v s).outTSrc = s.outTSrc := rfl
@[simp] theorem busWrite_outPSrc (a v : Byte) (s : State) : (busWrite a v s).outPSrc = s.outPSrc := rfl
@[simp] theorem busWrite_fault (a v : Byte) (s : State) : (busWrite a v s).fault = s.fault := rfl
@[simp] theorem busWrite_faultCmd (a v : Byte) (s : State) : (busWrite a v s).faultCmd = s.faultCmd := rfl
@[simp] theorem busWrite_busTrace (a v : Byte) (s : State) : (busWrite a v s).busTrace = s.busTrace ++ [.write a v] := rfl
@[simp] theorem busWrite_strategies (a v : Byte) (s : State) : (busWrite a v s).strategies = s.strategies := rfl
@[simp] theorem busWrite_hostQueue (a v : Byte) (s : State) : (busWrite a v s).hostQueue = s.hostQueue := rfl
@[simp] theorem busWrite_answers (a v : Byte) (s : State) : (busWrite a v s).answers = s.answers := rfl
@[simp] theorem busWrite_draws (a v : Byte) (s : State) : (busWrite a v s).draws = s.draws := rfl

/-! ### The encoded configuration bytes (R121) -/

@[simp] theorem writeEncoded_phase (f : ConfigFields) (s : State) : (writeEncoded f s).phase = s.phase := rfl
@[simp] theorem writeEncoded_resetSeen (f : ConfigFields) (s : State) : (writeEncoded f s).resetSeen = s.resetSeen := rfl
@[simp] theorem writeEncoded_cal (f : ConfigFields) (s : State) : (writeEncoded f s).cal = s.cal := rfl
@[simp] theorem writeEncoded_shadow (f : ConfigFields) (s : State) : (writeEncoded f s).shadow = s.shadow := rfl
@[simp] theorem writeEncoded_tFine (f : ConfigFields) (s : State) : (writeEncoded f s).tFine = s.tFine := rfl
@[simp] theorem writeEncoded_tFineValid (f : ConfigFields) (s : State) : (writeEncoded f s).tFineValid = s.tFineValid := rfl
@[simp] theorem writeEncoded_tFineSrc (f : ConfigFields) (s : State) : (writeEncoded f s).tFineSrc = s.tFineSrc := rfl
@[simp] theorem writeEncoded_rawP (f : ConfigFields) (s : State) : (writeEncoded f s).rawP = s.rawP := rfl
@[simp] theorem writeEncoded_rawT (f : ConfigFields) (s : State) : (writeEncoded f s).rawT = s.rawT := rfl
@[simp] theorem writeEncoded_statusByte (f : ConfigFields) (s : State) : (writeEncoded f s).statusByte = s.statusByte := rfl
@[simp] theorem writeEncoded_statMeasuring (f : ConfigFields) (s : State) : (writeEncoded f s).statMeasuring = s.statMeasuring := rfl
@[simp] theorem writeEncoded_statImUpdate (f : ConfigFields) (s : State) : (writeEncoded f s).statImUpdate = s.statImUpdate := rfl
@[simp] theorem writeEncoded_chipId (f : ConfigFields) (s : State) : (writeEncoded f s).chipId = s.chipId := rfl
@[simp] theorem writeEncoded_encConfig (f : ConfigFields) (s : State) : (writeEncoded f s).encConfig = .of (packConfig f) := rfl
@[simp] theorem writeEncoded_encCtrlMeas (f : ConfigFields) (s : State) : (writeEncoded f s).encCtrlMeas = .of (packCtrlMeas f) := rfl
@[simp] theorem writeEncoded_decFields (f : ConfigFields) (s : State) : (writeEncoded f s).decFields = s.decFields := rfl
@[simp] theorem writeEncoded_outTI32 (f : ConfigFields) (s : State) : (writeEncoded f s).outTI32 = s.outTI32 := rfl
@[simp] theorem writeEncoded_outPU32 (f : ConfigFields) (s : State) : (writeEncoded f s).outPU32 = s.outPU32 := rfl
@[simp] theorem writeEncoded_outTF64 (f : ConfigFields) (s : State) : (writeEncoded f s).outTF64 = s.outTF64 := rfl
@[simp] theorem writeEncoded_outPF64 (f : ConfigFields) (s : State) : (writeEncoded f s).outPF64 = s.outPF64 := rfl
@[simp] theorem writeEncoded_outTSrc (f : ConfigFields) (s : State) : (writeEncoded f s).outTSrc = s.outTSrc := rfl
@[simp] theorem writeEncoded_outPSrc (f : ConfigFields) (s : State) : (writeEncoded f s).outPSrc = s.outPSrc := rfl
@[simp] theorem writeEncoded_fault (f : ConfigFields) (s : State) : (writeEncoded f s).fault = s.fault := rfl
@[simp] theorem writeEncoded_faultCmd (f : ConfigFields) (s : State) : (writeEncoded f s).faultCmd = s.faultCmd := rfl
@[simp] theorem writeEncoded_busTrace (f : ConfigFields) (s : State) : (writeEncoded f s).busTrace = s.busTrace := rfl
@[simp] theorem writeEncoded_strategies (f : ConfigFields) (s : State) : (writeEncoded f s).strategies = s.strategies := rfl
@[simp] theorem writeEncoded_hostQueue (f : ConfigFields) (s : State) : (writeEncoded f s).hostQueue = s.hostQueue := rfl
@[simp] theorem writeEncoded_answers (f : ConfigFields) (s : State) : (writeEncoded f s).answers = s.answers := rfl
@[simp] theorem writeEncoded_draws (f : ConfigFields) (s : State) : (writeEncoded f s).draws = s.draws := rfl

/-! ### The status flags (R123) -/

@[simp] theorem writeStatusFlags_phase (b : Byte) (s : State) : (writeStatusFlags b s).phase = s.phase := rfl
@[simp] theorem writeStatusFlags_resetSeen (b : Byte) (s : State) : (writeStatusFlags b s).resetSeen = s.resetSeen := rfl
@[simp] theorem writeStatusFlags_cal (b : Byte) (s : State) : (writeStatusFlags b s).cal = s.cal := rfl
@[simp] theorem writeStatusFlags_shadow (b : Byte) (s : State) : (writeStatusFlags b s).shadow = s.shadow := rfl
@[simp] theorem writeStatusFlags_tFine (b : Byte) (s : State) : (writeStatusFlags b s).tFine = s.tFine := rfl
@[simp] theorem writeStatusFlags_tFineValid (b : Byte) (s : State) : (writeStatusFlags b s).tFineValid = s.tFineValid := rfl
@[simp] theorem writeStatusFlags_tFineSrc (b : Byte) (s : State) : (writeStatusFlags b s).tFineSrc = s.tFineSrc := rfl
@[simp] theorem writeStatusFlags_rawP (b : Byte) (s : State) : (writeStatusFlags b s).rawP = s.rawP := rfl
@[simp] theorem writeStatusFlags_rawT (b : Byte) (s : State) : (writeStatusFlags b s).rawT = s.rawT := rfl
@[simp] theorem writeStatusFlags_statusByte (b : Byte) (s : State) : (writeStatusFlags b s).statusByte = s.statusByte := rfl
@[simp] theorem writeStatusFlags_statMeasuring (b : Byte) (s : State) : (writeStatusFlags b s).statMeasuring = .of (statusMeasuring b) := rfl
@[simp] theorem writeStatusFlags_statImUpdate (b : Byte) (s : State) : (writeStatusFlags b s).statImUpdate = .of (statusImUpdate b) := rfl
@[simp] theorem writeStatusFlags_chipId (b : Byte) (s : State) : (writeStatusFlags b s).chipId = s.chipId := rfl
@[simp] theorem writeStatusFlags_encConfig (b : Byte) (s : State) : (writeStatusFlags b s).encConfig = s.encConfig := rfl
@[simp] theorem writeStatusFlags_encCtrlMeas (b : Byte) (s : State) : (writeStatusFlags b s).encCtrlMeas = s.encCtrlMeas := rfl
@[simp] theorem writeStatusFlags_decFields (b : Byte) (s : State) : (writeStatusFlags b s).decFields = s.decFields := rfl
@[simp] theorem writeStatusFlags_outTI32 (b : Byte) (s : State) : (writeStatusFlags b s).outTI32 = s.outTI32 := rfl
@[simp] theorem writeStatusFlags_outPU32 (b : Byte) (s : State) : (writeStatusFlags b s).outPU32 = s.outPU32 := rfl
@[simp] theorem writeStatusFlags_outTF64 (b : Byte) (s : State) : (writeStatusFlags b s).outTF64 = s.outTF64 := rfl
@[simp] theorem writeStatusFlags_outPF64 (b : Byte) (s : State) : (writeStatusFlags b s).outPF64 = s.outPF64 := rfl
@[simp] theorem writeStatusFlags_outTSrc (b : Byte) (s : State) : (writeStatusFlags b s).outTSrc = s.outTSrc := rfl
@[simp] theorem writeStatusFlags_outPSrc (b : Byte) (s : State) : (writeStatusFlags b s).outPSrc = s.outPSrc := rfl
@[simp] theorem writeStatusFlags_fault (b : Byte) (s : State) : (writeStatusFlags b s).fault = s.fault := rfl
@[simp] theorem writeStatusFlags_faultCmd (b : Byte) (s : State) : (writeStatusFlags b s).faultCmd = s.faultCmd := rfl
@[simp] theorem writeStatusFlags_busTrace (b : Byte) (s : State) : (writeStatusFlags b s).busTrace = s.busTrace := rfl
@[simp] theorem writeStatusFlags_strategies (b : Byte) (s : State) : (writeStatusFlags b s).strategies = s.strategies := rfl
@[simp] theorem writeStatusFlags_hostQueue (b : Byte) (s : State) : (writeStatusFlags b s).hostQueue = s.hostQueue := rfl
@[simp] theorem writeStatusFlags_answers (b : Byte) (s : State) : (writeStatusFlags b s).answers = s.answers := rfl
@[simp] theorem writeStatusFlags_draws (b : Byte) (s : State) : (writeStatusFlags b s).draws = s.draws := rfl

/-! ### The integer temperature stage (R182, R184) -/

@[simp] theorem writeTempInt_phase (st : Strategy) (t : BitVec 20) (s : State) : (writeTempInt st t s).phase = s.phase := rfl
@[simp] theorem writeTempInt_resetSeen (st : Strategy) (t : BitVec 20) (s : State) : (writeTempInt st t s).resetSeen = s.resetSeen := rfl
@[simp] theorem writeTempInt_cal (st : Strategy) (t : BitVec 20) (s : State) : (writeTempInt st t s).cal = s.cal := rfl
@[simp] theorem writeTempInt_shadow (st : Strategy) (t : BitVec 20) (s : State) : (writeTempInt st t s).shadow = s.shadow := rfl
@[simp] theorem writeTempInt_tFine (st : Strategy) (t : BitVec 20) (s : State) : (writeTempInt st t s).tFine = .of (tempInt s.cal.value t).1 := rfl
@[simp] theorem writeTempInt_tFineValid (st : Strategy) (t : BitVec 20) (s : State) : (writeTempInt st t s).tFineValid = true := rfl
@[simp] theorem writeTempInt_tFineSrc (st : Strategy) (t : BitVec 20) (s : State) : (writeTempInt st t s).tFineSrc = strategyTag st := rfl
@[simp] theorem writeTempInt_rawP (st : Strategy) (t : BitVec 20) (s : State) : (writeTempInt st t s).rawP = s.rawP := rfl
@[simp] theorem writeTempInt_rawT (st : Strategy) (t : BitVec 20) (s : State) : (writeTempInt st t s).rawT = s.rawT := rfl
@[simp] theorem writeTempInt_statusByte (st : Strategy) (t : BitVec 20) (s : State) : (writeTempInt st t s).statusByte = s.statusByte := rfl
@[simp] theorem writeTempInt_statMeasuring (st : Strategy) (t : BitVec 20) (s : State) : (writeTempInt st t s).statMeasuring = s.statMeasuring := rfl
@[simp] theorem writeTempInt_statImUpdate (st : Strategy) (t : BitVec 20) (s : State) : (writeTempInt st t s).statImUpdate = s.statImUpdate := rfl
@[simp] theorem writeTempInt_chipId (st : Strategy) (t : BitVec 20) (s : State) : (writeTempInt st t s).chipId = s.chipId := rfl
@[simp] theorem writeTempInt_encConfig (st : Strategy) (t : BitVec 20) (s : State) : (writeTempInt st t s).encConfig = s.encConfig := rfl
@[simp] theorem writeTempInt_encCtrlMeas (st : Strategy) (t : BitVec 20) (s : State) : (writeTempInt st t s).encCtrlMeas = s.encCtrlMeas := rfl
@[simp] theorem writeTempInt_decFields (st : Strategy) (t : BitVec 20) (s : State) : (writeTempInt st t s).decFields = s.decFields := rfl
@[simp] theorem writeTempInt_outTI32 (st : Strategy) (t : BitVec 20) (s : State) : (writeTempInt st t s).outTI32 = .of (tempInt s.cal.value t).2 := rfl
@[simp] theorem writeTempInt_outPU32 (st : Strategy) (t : BitVec 20) (s : State) : (writeTempInt st t s).outPU32 = s.outPU32 := rfl
@[simp] theorem writeTempInt_outTF64 (st : Strategy) (t : BitVec 20) (s : State) : (writeTempInt st t s).outTF64 = s.outTF64 := rfl
@[simp] theorem writeTempInt_outPF64 (st : Strategy) (t : BitVec 20) (s : State) : (writeTempInt st t s).outPF64 = s.outPF64 := rfl
@[simp] theorem writeTempInt_outTSrc (st : Strategy) (t : BitVec 20) (s : State) : (writeTempInt st t s).outTSrc = strategyTag st := rfl
@[simp] theorem writeTempInt_outPSrc (st : Strategy) (t : BitVec 20) (s : State) : (writeTempInt st t s).outPSrc = s.outPSrc := rfl
@[simp] theorem writeTempInt_fault (st : Strategy) (t : BitVec 20) (s : State) : (writeTempInt st t s).fault = s.fault := rfl
@[simp] theorem writeTempInt_faultCmd (st : Strategy) (t : BitVec 20) (s : State) : (writeTempInt st t s).faultCmd = s.faultCmd := rfl
@[simp] theorem writeTempInt_busTrace (st : Strategy) (t : BitVec 20) (s : State) : (writeTempInt st t s).busTrace = s.busTrace := rfl
@[simp] theorem writeTempInt_strategies (st : Strategy) (t : BitVec 20) (s : State) : (writeTempInt st t s).strategies = s.strategies := rfl
@[simp] theorem writeTempInt_hostQueue (st : Strategy) (t : BitVec 20) (s : State) : (writeTempInt st t s).hostQueue = s.hostQueue := rfl
@[simp] theorem writeTempInt_answers (st : Strategy) (t : BitVec 20) (s : State) : (writeTempInt st t s).answers = s.answers := rfl
@[simp] theorem writeTempInt_draws (st : Strategy) (t : BitVec 20) (s : State) : (writeTempInt st t s).draws = s.draws := rfl

/-! ### The binary64 temperature stage (R183) -/

@[simp] theorem writeTempF_phase (t : BitVec 20) (s : State) : (writeTempF t s).phase = s.phase := rfl
@[simp] theorem writeTempF_resetSeen (t : BitVec 20) (s : State) : (writeTempF t s).resetSeen = s.resetSeen := rfl
@[simp] theorem writeTempF_cal (t : BitVec 20) (s : State) : (writeTempF t s).cal = s.cal := rfl
@[simp] theorem writeTempF_shadow (t : BitVec 20) (s : State) : (writeTempF t s).shadow = s.shadow := rfl
@[simp] theorem writeTempF_tFine (t : BitVec 20) (s : State) : (writeTempF t s).tFine = .of (tempF s.cal.value t).1 := rfl
@[simp] theorem writeTempF_tFineValid (t : BitVec 20) (s : State) : (writeTempF t s).tFineValid = true := rfl
@[simp] theorem writeTempF_tFineSrc (t : BitVec 20) (s : State) : (writeTempF t s).tFineSrc = strategyTag .b := rfl
@[simp] theorem writeTempF_rawP (t : BitVec 20) (s : State) : (writeTempF t s).rawP = s.rawP := rfl
@[simp] theorem writeTempF_rawT (t : BitVec 20) (s : State) : (writeTempF t s).rawT = s.rawT := rfl
@[simp] theorem writeTempF_statusByte (t : BitVec 20) (s : State) : (writeTempF t s).statusByte = s.statusByte := rfl
@[simp] theorem writeTempF_statMeasuring (t : BitVec 20) (s : State) : (writeTempF t s).statMeasuring = s.statMeasuring := rfl
@[simp] theorem writeTempF_statImUpdate (t : BitVec 20) (s : State) : (writeTempF t s).statImUpdate = s.statImUpdate := rfl
@[simp] theorem writeTempF_chipId (t : BitVec 20) (s : State) : (writeTempF t s).chipId = s.chipId := rfl
@[simp] theorem writeTempF_encConfig (t : BitVec 20) (s : State) : (writeTempF t s).encConfig = s.encConfig := rfl
@[simp] theorem writeTempF_encCtrlMeas (t : BitVec 20) (s : State) : (writeTempF t s).encCtrlMeas = s.encCtrlMeas := rfl
@[simp] theorem writeTempF_decFields (t : BitVec 20) (s : State) : (writeTempF t s).decFields = s.decFields := rfl
@[simp] theorem writeTempF_outTI32 (t : BitVec 20) (s : State) : (writeTempF t s).outTI32 = s.outTI32 := rfl
@[simp] theorem writeTempF_outPU32 (t : BitVec 20) (s : State) : (writeTempF t s).outPU32 = s.outPU32 := rfl
@[simp] theorem writeTempF_outTF64 (t : BitVec 20) (s : State) : (writeTempF t s).outTF64 = .of (tempF s.cal.value t).2 := rfl
@[simp] theorem writeTempF_outPF64 (t : BitVec 20) (s : State) : (writeTempF t s).outPF64 = s.outPF64 := rfl
@[simp] theorem writeTempF_outTSrc (t : BitVec 20) (s : State) : (writeTempF t s).outTSrc = strategyTag .b := rfl
@[simp] theorem writeTempF_outPSrc (t : BitVec 20) (s : State) : (writeTempF t s).outPSrc = s.outPSrc := rfl
@[simp] theorem writeTempF_fault (t : BitVec 20) (s : State) : (writeTempF t s).fault = s.fault := rfl
@[simp] theorem writeTempF_faultCmd (t : BitVec 20) (s : State) : (writeTempF t s).faultCmd = s.faultCmd := rfl
@[simp] theorem writeTempF_busTrace (t : BitVec 20) (s : State) : (writeTempF t s).busTrace = s.busTrace := rfl
@[simp] theorem writeTempF_strategies (t : BitVec 20) (s : State) : (writeTempF t s).strategies = s.strategies := rfl
@[simp] theorem writeTempF_hostQueue (t : BitVec 20) (s : State) : (writeTempF t s).hostQueue = s.hostQueue := rfl
@[simp] theorem writeTempF_answers (t : BitVec 20) (s : State) : (writeTempF t s).answers = s.answers := rfl
@[simp] theorem writeTempF_draws (t : BitVec 20) (s : State) : (writeTempF t s).draws = s.draws := rfl

/-! ### The pressure stage of Strategy A (R185) -/

@[simp] theorem writePresA_phase (q : BitVec 20) (s : State) : (writePresA q s).phase = s.phase := rfl
@[simp] theorem writePresA_resetSeen (q : BitVec 20) (s : State) : (writePresA q s).resetSeen = s.resetSeen := rfl
@[simp] theorem writePresA_cal (q : BitVec 20) (s : State) : (writePresA q s).cal = s.cal := rfl
@[simp] theorem writePresA_shadow (q : BitVec 20) (s : State) : (writePresA q s).shadow = s.shadow := rfl
@[simp] theorem writePresA_tFine (q : BitVec 20) (s : State) : (writePresA q s).tFine = s.tFine := rfl
@[simp] theorem writePresA_tFineValid (q : BitVec 20) (s : State) : (writePresA q s).tFineValid = s.tFineValid := rfl
@[simp] theorem writePresA_tFineSrc (q : BitVec 20) (s : State) : (writePresA q s).tFineSrc = s.tFineSrc := rfl
@[simp] theorem writePresA_rawP (q : BitVec 20) (s : State) : (writePresA q s).rawP = s.rawP := rfl
@[simp] theorem writePresA_rawT (q : BitVec 20) (s : State) : (writePresA q s).rawT = s.rawT := rfl
@[simp] theorem writePresA_statusByte (q : BitVec 20) (s : State) : (writePresA q s).statusByte = s.statusByte := rfl
@[simp] theorem writePresA_statMeasuring (q : BitVec 20) (s : State) : (writePresA q s).statMeasuring = s.statMeasuring := rfl
@[simp] theorem writePresA_statImUpdate (q : BitVec 20) (s : State) : (writePresA q s).statImUpdate = s.statImUpdate := rfl
@[simp] theorem writePresA_chipId (q : BitVec 20) (s : State) : (writePresA q s).chipId = s.chipId := rfl
@[simp] theorem writePresA_encConfig (q : BitVec 20) (s : State) : (writePresA q s).encConfig = s.encConfig := rfl
@[simp] theorem writePresA_encCtrlMeas (q : BitVec 20) (s : State) : (writePresA q s).encCtrlMeas = s.encCtrlMeas := rfl
@[simp] theorem writePresA_decFields (q : BitVec 20) (s : State) : (writePresA q s).decFields = s.decFields := rfl
@[simp] theorem writePresA_outTI32 (q : BitVec 20) (s : State) : (writePresA q s).outTI32 = s.outTI32 := rfl
@[simp] theorem writePresA_outPU32 (q : BitVec 20) (s : State) : (writePresA q s).outPU32 = .of (presA s.cal.value q s.tFine.value) := rfl
@[simp] theorem writePresA_outTF64 (q : BitVec 20) (s : State) : (writePresA q s).outTF64 = s.outTF64 := rfl
@[simp] theorem writePresA_outPF64 (q : BitVec 20) (s : State) : (writePresA q s).outPF64 = s.outPF64 := rfl
@[simp] theorem writePresA_outTSrc (q : BitVec 20) (s : State) : (writePresA q s).outTSrc = s.outTSrc := rfl
@[simp] theorem writePresA_outPSrc (q : BitVec 20) (s : State) : (writePresA q s).outPSrc = strategyTag .a := rfl
@[simp] theorem writePresA_fault (q : BitVec 20) (s : State) : (writePresA q s).fault = s.fault := rfl
@[simp] theorem writePresA_faultCmd (q : BitVec 20) (s : State) : (writePresA q s).faultCmd = s.faultCmd := rfl
@[simp] theorem writePresA_busTrace (q : BitVec 20) (s : State) : (writePresA q s).busTrace = s.busTrace := rfl
@[simp] theorem writePresA_strategies (q : BitVec 20) (s : State) : (writePresA q s).strategies = s.strategies := rfl
@[simp] theorem writePresA_hostQueue (q : BitVec 20) (s : State) : (writePresA q s).hostQueue = s.hostQueue := rfl
@[simp] theorem writePresA_answers (q : BitVec 20) (s : State) : (writePresA q s).answers = s.answers := rfl
@[simp] theorem writePresA_draws (q : BitVec 20) (s : State) : (writePresA q s).draws = s.draws := rfl

/-! ### The pressure stage of Strategy B (R186) -/

@[simp] theorem writePresF_phase (q : BitVec 20) (s : State) : (writePresF q s).phase = s.phase := rfl
@[simp] theorem writePresF_resetSeen (q : BitVec 20) (s : State) : (writePresF q s).resetSeen = s.resetSeen := rfl
@[simp] theorem writePresF_cal (q : BitVec 20) (s : State) : (writePresF q s).cal = s.cal := rfl
@[simp] theorem writePresF_shadow (q : BitVec 20) (s : State) : (writePresF q s).shadow = s.shadow := rfl
@[simp] theorem writePresF_tFine (q : BitVec 20) (s : State) : (writePresF q s).tFine = s.tFine := rfl
@[simp] theorem writePresF_tFineValid (q : BitVec 20) (s : State) : (writePresF q s).tFineValid = s.tFineValid := rfl
@[simp] theorem writePresF_tFineSrc (q : BitVec 20) (s : State) : (writePresF q s).tFineSrc = s.tFineSrc := rfl
@[simp] theorem writePresF_rawP (q : BitVec 20) (s : State) : (writePresF q s).rawP = s.rawP := rfl
@[simp] theorem writePresF_rawT (q : BitVec 20) (s : State) : (writePresF q s).rawT = s.rawT := rfl
@[simp] theorem writePresF_statusByte (q : BitVec 20) (s : State) : (writePresF q s).statusByte = s.statusByte := rfl
@[simp] theorem writePresF_statMeasuring (q : BitVec 20) (s : State) : (writePresF q s).statMeasuring = s.statMeasuring := rfl
@[simp] theorem writePresF_statImUpdate (q : BitVec 20) (s : State) : (writePresF q s).statImUpdate = s.statImUpdate := rfl
@[simp] theorem writePresF_chipId (q : BitVec 20) (s : State) : (writePresF q s).chipId = s.chipId := rfl
@[simp] theorem writePresF_encConfig (q : BitVec 20) (s : State) : (writePresF q s).encConfig = s.encConfig := rfl
@[simp] theorem writePresF_encCtrlMeas (q : BitVec 20) (s : State) : (writePresF q s).encCtrlMeas = s.encCtrlMeas := rfl
@[simp] theorem writePresF_decFields (q : BitVec 20) (s : State) : (writePresF q s).decFields = s.decFields := rfl
@[simp] theorem writePresF_outTI32 (q : BitVec 20) (s : State) : (writePresF q s).outTI32 = s.outTI32 := rfl
@[simp] theorem writePresF_outPU32 (q : BitVec 20) (s : State) : (writePresF q s).outPU32 = s.outPU32 := rfl
@[simp] theorem writePresF_outTF64 (q : BitVec 20) (s : State) : (writePresF q s).outTF64 = s.outTF64 := rfl
@[simp] theorem writePresF_outPF64 (q : BitVec 20) (s : State) : (writePresF q s).outPF64 = .of (presF s.cal.value q s.tFine.value) := rfl
@[simp] theorem writePresF_outTSrc (q : BitVec 20) (s : State) : (writePresF q s).outTSrc = s.outTSrc := rfl
@[simp] theorem writePresF_outPSrc (q : BitVec 20) (s : State) : (writePresF q s).outPSrc = strategyTag .b := rfl
@[simp] theorem writePresF_fault (q : BitVec 20) (s : State) : (writePresF q s).fault = s.fault := rfl
@[simp] theorem writePresF_faultCmd (q : BitVec 20) (s : State) : (writePresF q s).faultCmd = s.faultCmd := rfl
@[simp] theorem writePresF_busTrace (q : BitVec 20) (s : State) : (writePresF q s).busTrace = s.busTrace := rfl
@[simp] theorem writePresF_strategies (q : BitVec 20) (s : State) : (writePresF q s).strategies = s.strategies := rfl
@[simp] theorem writePresF_hostQueue (q : BitVec 20) (s : State) : (writePresF q s).hostQueue = s.hostQueue := rfl
@[simp] theorem writePresF_answers (q : BitVec 20) (s : State) : (writePresF q s).answers = s.answers := rfl
@[simp] theorem writePresF_draws (q : BitVec 20) (s : State) : (writePresF q s).draws = s.draws := rfl

/-! ### The pressure stage of Strategy C (R187) -/

@[simp] theorem writePresC_phase (q : BitVec 20) (s : State) : (writePresC q s).phase = s.phase := rfl
@[simp] theorem writePresC_resetSeen (q : BitVec 20) (s : State) : (writePresC q s).resetSeen = s.resetSeen := rfl
@[simp] theorem writePresC_cal (q : BitVec 20) (s : State) : (writePresC q s).cal = s.cal := rfl
@[simp] theorem writePresC_shadow (q : BitVec 20) (s : State) : (writePresC q s).shadow = s.shadow := rfl
@[simp] theorem writePresC_tFine (q : BitVec 20) (s : State) : (writePresC q s).tFine = s.tFine := rfl
@[simp] theorem writePresC_tFineValid (q : BitVec 20) (s : State) : (writePresC q s).tFineValid = s.tFineValid := rfl
@[simp] theorem writePresC_tFineSrc (q : BitVec 20) (s : State) : (writePresC q s).tFineSrc = s.tFineSrc := rfl
@[simp] theorem writePresC_rawP (q : BitVec 20) (s : State) : (writePresC q s).rawP = s.rawP := rfl
@[simp] theorem writePresC_rawT (q : BitVec 20) (s : State) : (writePresC q s).rawT = s.rawT := rfl
@[simp] theorem writePresC_statusByte (q : BitVec 20) (s : State) : (writePresC q s).statusByte = s.statusByte := rfl
@[simp] theorem writePresC_statMeasuring (q : BitVec 20) (s : State) : (writePresC q s).statMeasuring = s.statMeasuring := rfl
@[simp] theorem writePresC_statImUpdate (q : BitVec 20) (s : State) : (writePresC q s).statImUpdate = s.statImUpdate := rfl
@[simp] theorem writePresC_chipId (q : BitVec 20) (s : State) : (writePresC q s).chipId = s.chipId := rfl
@[simp] theorem writePresC_encConfig (q : BitVec 20) (s : State) : (writePresC q s).encConfig = s.encConfig := rfl
@[simp] theorem writePresC_encCtrlMeas (q : BitVec 20) (s : State) : (writePresC q s).encCtrlMeas = s.encCtrlMeas := rfl
@[simp] theorem writePresC_decFields (q : BitVec 20) (s : State) : (writePresC q s).decFields = s.decFields := rfl
@[simp] theorem writePresC_outTI32 (q : BitVec 20) (s : State) : (writePresC q s).outTI32 = s.outTI32 := rfl
@[simp] theorem writePresC_outPU32 (q : BitVec 20) (s : State) : (writePresC q s).outPU32 = .of (presC s.cal.value q s.tFine.value) := rfl
@[simp] theorem writePresC_outTF64 (q : BitVec 20) (s : State) : (writePresC q s).outTF64 = s.outTF64 := rfl
@[simp] theorem writePresC_outPF64 (q : BitVec 20) (s : State) : (writePresC q s).outPF64 = s.outPF64 := rfl
@[simp] theorem writePresC_outTSrc (q : BitVec 20) (s : State) : (writePresC q s).outTSrc = s.outTSrc := rfl
@[simp] theorem writePresC_outPSrc (q : BitVec 20) (s : State) : (writePresC q s).outPSrc = strategyTag .c := rfl
@[simp] theorem writePresC_fault (q : BitVec 20) (s : State) : (writePresC q s).fault = s.fault := rfl
@[simp] theorem writePresC_faultCmd (q : BitVec 20) (s : State) : (writePresC q s).faultCmd = s.faultCmd := rfl
@[simp] theorem writePresC_busTrace (q : BitVec 20) (s : State) : (writePresC q s).busTrace = s.busTrace := rfl
@[simp] theorem writePresC_strategies (q : BitVec 20) (s : State) : (writePresC q s).strategies = s.strategies := rfl
@[simp] theorem writePresC_hostQueue (q : BitVec 20) (s : State) : (writePresC q s).hostQueue = s.hostQueue := rfl
@[simp] theorem writePresC_answers (q : BitVec 20) (s : State) : (writePresC q s).answers = s.answers := rfl
@[simp] theorem writePresC_draws (q : BitVec 20) (s : State) : (writePresC q s).draws = s.draws := rfl

/-! ### The power-on reset (R250) -/

@[simp] theorem powerOnReset_phase (s : State) : (powerOnReset s).phase = State.reset.phase := rfl
@[simp] theorem powerOnReset_resetSeen (s : State) : (powerOnReset s).resetSeen = State.reset.resetSeen := rfl
@[simp] theorem powerOnReset_cal (s : State) : (powerOnReset s).cal = State.reset.cal := rfl
@[simp] theorem powerOnReset_shadow (s : State) : (powerOnReset s).shadow = State.reset.shadow := rfl
@[simp] theorem powerOnReset_tFine (s : State) : (powerOnReset s).tFine = State.reset.tFine := rfl
@[simp] theorem powerOnReset_tFineValid (s : State) : (powerOnReset s).tFineValid = State.reset.tFineValid := rfl
@[simp] theorem powerOnReset_tFineSrc (s : State) : (powerOnReset s).tFineSrc = State.reset.tFineSrc := rfl
@[simp] theorem powerOnReset_rawP (s : State) : (powerOnReset s).rawP = State.reset.rawP := rfl
@[simp] theorem powerOnReset_rawT (s : State) : (powerOnReset s).rawT = State.reset.rawT := rfl
@[simp] theorem powerOnReset_statusByte (s : State) : (powerOnReset s).statusByte = State.reset.statusByte := rfl
@[simp] theorem powerOnReset_statMeasuring (s : State) : (powerOnReset s).statMeasuring = State.reset.statMeasuring := rfl
@[simp] theorem powerOnReset_statImUpdate (s : State) : (powerOnReset s).statImUpdate = State.reset.statImUpdate := rfl
@[simp] theorem powerOnReset_chipId (s : State) : (powerOnReset s).chipId = State.reset.chipId := rfl
@[simp] theorem powerOnReset_encConfig (s : State) : (powerOnReset s).encConfig = State.reset.encConfig := rfl
@[simp] theorem powerOnReset_encCtrlMeas (s : State) : (powerOnReset s).encCtrlMeas = State.reset.encCtrlMeas := rfl
@[simp] theorem powerOnReset_decFields (s : State) : (powerOnReset s).decFields = State.reset.decFields := rfl
@[simp] theorem powerOnReset_outTI32 (s : State) : (powerOnReset s).outTI32 = State.reset.outTI32 := rfl
@[simp] theorem powerOnReset_outPU32 (s : State) : (powerOnReset s).outPU32 = State.reset.outPU32 := rfl
@[simp] theorem powerOnReset_outTF64 (s : State) : (powerOnReset s).outTF64 = State.reset.outTF64 := rfl
@[simp] theorem powerOnReset_outPF64 (s : State) : (powerOnReset s).outPF64 = State.reset.outPF64 := rfl
@[simp] theorem powerOnReset_outTSrc (s : State) : (powerOnReset s).outTSrc = State.reset.outTSrc := rfl
@[simp] theorem powerOnReset_outPSrc (s : State) : (powerOnReset s).outPSrc = State.reset.outPSrc := rfl
@[simp] theorem powerOnReset_fault (s : State) : (powerOnReset s).fault = State.reset.fault := rfl
@[simp] theorem powerOnReset_faultCmd (s : State) : (powerOnReset s).faultCmd = State.reset.faultCmd := rfl
@[simp] theorem powerOnReset_busTrace (s : State) : (powerOnReset s).busTrace = State.reset.busTrace := rfl
@[simp] theorem powerOnReset_strategies (s : State) : (powerOnReset s).strategies = s.strategies := rfl
@[simp] theorem powerOnReset_hostQueue (s : State) : (powerOnReset s).hostQueue = s.hostQueue := rfl
@[simp] theorem powerOnReset_answers (s : State) : (powerOnReset s).answers = s.answers := rfl
@[simp] theorem powerOnReset_draws (s : State) : (powerOnReset s).draws = s.draws := rfl

/-! ### The host's moves to come (R81) -/

@[simp] theorem setQueue_phase (moves : List HostMove) (s : State) : (setQueue moves s).phase = s.phase := rfl
@[simp] theorem setQueue_resetSeen (moves : List HostMove) (s : State) : (setQueue moves s).resetSeen = s.resetSeen := rfl
@[simp] theorem setQueue_cal (moves : List HostMove) (s : State) : (setQueue moves s).cal = s.cal := rfl
@[simp] theorem setQueue_shadow (moves : List HostMove) (s : State) : (setQueue moves s).shadow = s.shadow := rfl
@[simp] theorem setQueue_tFine (moves : List HostMove) (s : State) : (setQueue moves s).tFine = s.tFine := rfl
@[simp] theorem setQueue_tFineValid (moves : List HostMove) (s : State) : (setQueue moves s).tFineValid = s.tFineValid := rfl
@[simp] theorem setQueue_tFineSrc (moves : List HostMove) (s : State) : (setQueue moves s).tFineSrc = s.tFineSrc := rfl
@[simp] theorem setQueue_rawP (moves : List HostMove) (s : State) : (setQueue moves s).rawP = s.rawP := rfl
@[simp] theorem setQueue_rawT (moves : List HostMove) (s : State) : (setQueue moves s).rawT = s.rawT := rfl
@[simp] theorem setQueue_statusByte (moves : List HostMove) (s : State) : (setQueue moves s).statusByte = s.statusByte := rfl
@[simp] theorem setQueue_statMeasuring (moves : List HostMove) (s : State) : (setQueue moves s).statMeasuring = s.statMeasuring := rfl
@[simp] theorem setQueue_statImUpdate (moves : List HostMove) (s : State) : (setQueue moves s).statImUpdate = s.statImUpdate := rfl
@[simp] theorem setQueue_chipId (moves : List HostMove) (s : State) : (setQueue moves s).chipId = s.chipId := rfl
@[simp] theorem setQueue_encConfig (moves : List HostMove) (s : State) : (setQueue moves s).encConfig = s.encConfig := rfl
@[simp] theorem setQueue_encCtrlMeas (moves : List HostMove) (s : State) : (setQueue moves s).encCtrlMeas = s.encCtrlMeas := rfl
@[simp] theorem setQueue_decFields (moves : List HostMove) (s : State) : (setQueue moves s).decFields = s.decFields := rfl
@[simp] theorem setQueue_outTI32 (moves : List HostMove) (s : State) : (setQueue moves s).outTI32 = s.outTI32 := rfl
@[simp] theorem setQueue_outPU32 (moves : List HostMove) (s : State) : (setQueue moves s).outPU32 = s.outPU32 := rfl
@[simp] theorem setQueue_outTF64 (moves : List HostMove) (s : State) : (setQueue moves s).outTF64 = s.outTF64 := rfl
@[simp] theorem setQueue_outPF64 (moves : List HostMove) (s : State) : (setQueue moves s).outPF64 = s.outPF64 := rfl
@[simp] theorem setQueue_outTSrc (moves : List HostMove) (s : State) : (setQueue moves s).outTSrc = s.outTSrc := rfl
@[simp] theorem setQueue_outPSrc (moves : List HostMove) (s : State) : (setQueue moves s).outPSrc = s.outPSrc := rfl
@[simp] theorem setQueue_fault (moves : List HostMove) (s : State) : (setQueue moves s).fault = s.fault := rfl
@[simp] theorem setQueue_faultCmd (moves : List HostMove) (s : State) : (setQueue moves s).faultCmd = s.faultCmd := rfl
@[simp] theorem setQueue_busTrace (moves : List HostMove) (s : State) : (setQueue moves s).busTrace = s.busTrace := rfl
@[simp] theorem setQueue_strategies (moves : List HostMove) (s : State) : (setQueue moves s).strategies = s.strategies := rfl
@[simp] theorem setQueue_hostQueue (moves : List HostMove) (s : State) : (setQueue moves s).hostQueue = moves := rfl
@[simp] theorem setQueue_answers (moves : List HostMove) (s : State) : (setQueue moves s).answers = s.answers := rfl
@[simp] theorem setQueue_draws (moves : List HostMove) (s : State) : (setQueue moves s).draws = s.draws := rfl

/-- A command word put before the host's other moves. -/
@[simp] theorem issueFirst_eq (w : CmdWord) (s : State) :
    issueFirst w s = setQueue (.command w :: s.hostQueue) s := rfl

end Sys2Proof.Machine
end

