-- ==== Sys2Proof/Laws/Ops.lean ====
section
/-! SUPPORT. One lemma per shared operation that says everything it can do, for later proofs to cite. -/

namespace Sys2Proof.Machine

/-- A checked command answers a next state, whatever the state: its effect, or the PRECOND fault. -/
theorem checked_eq_next (i : Instr) (ok : Bool) (s t : State) :
    checked i ok s t = .next (if ok then t else raiseFault .precond (encode i) s) := by
  cases ok <;> rfl

/-- Where the precondition holds, a checked command has its effect. -/
theorem checked_of_true {ok : Bool} (h : ok = true) (i : Instr) (s t : State) : checked i ok s t = .next t := by
  simp [checked, h]

/-- Where the precondition fails, a checked command raises PRECOND and does nothing else (R225). -/
theorem checked_of_false {ok : Bool} (h : ok = false) (i : Instr) (s t : State) :
    checked i ok s t = .next (raiseFault .precond (encode i) s) := by
  simp [checked, h]

/-- What a checked command answers, taken apart. -/
theorem checked_cases {i : Instr} {ok : Bool} {s t u : State} (h : checked i ok s t = .next u) :
    (ok = true ∧ u = t) ∨ (ok = false ∧ u = raiseFault .precond (encode i) s) := by
  cases ok
  · exact .inr ⟨rfl, by simpa [checked] using h.symm⟩
  · exact .inl ⟨rfl, by simpa [checked] using h.symm⟩

/-- A read brings as many bytes as it asks for (R64). -/
@[simp] theorem answerBytes_length (s : State) (n : Nat) : (answerBytes s n).length = n := by
  simp [answerBytes]

/-- Where an answer is listed, that is the answer. -/
theorem answerByte_of_listed {s : State} {k : Nat} {b : Byte} (h : s.answers[k]? = some b) : answerByte s k = b := by
  simp [answerByte, h]

/-- `FAULT` is nonzero once a fault is recorded (R224). -/
theorem raiseFault_fault_ne_zero (c : FaultCause) (w : CmdWord) (s : State) : (raiseFault c w s).fault ≠ 0 := by
  have h : ∀ f : BitVec 2, f ||| faultBit c ≠ 0 := by cases c <;> decide
  exact h s.fault

/-- A fault leaves every bit of `FAULT` that was set (R227). -/
theorem raiseFault_sticky (c : FaultCause) (w : CmdWord) (s : State) :
    s.fault &&& (raiseFault c w s).fault = s.fault := by
  have h : ∀ f : BitVec 2, f &&& (f ||| faultBit c) = f := by cases c <;> decide
  exact h s.fault

/-- The order of the phases (R21), as the comparisons the preconditions make. -/
theorem atLeast_calLoaded_iff (p : Phase) : p.atLeast .calLoaded = true ↔ p ≠ .uninit := by
  cases p <;> decide

theorem atLeast_configured_iff (p : Phase) :
    p.atLeast .configured = true ↔ p = .configured ∨ p = .sampling := by
  cases p <;> decide

theorem canLoadCalib_iff (s : State) : canLoadCalib s = true ↔ s.phase = .uninit ∧ s.resetSeen = true := by
  simp [canLoadCalib]

theorem pressureReady_iff (s : State) : pressureReady s = true ↔ calReady s = true ∧ s.tFineValid = true := by
  simp [pressureReady, calReady]

/-- The phase never goes back in APPLY_CONFIG and READ_RAW (R140). -/
theorem phaseAfterApply_of_ready {p : Phase} (h : p.atLeast .calLoaded = true) :
    (phaseAfterApply p).atLeast .configured = true := by
  revert h; cases p <;> decide

theorem phaseAfterRaw_of_ready {p : Phase} (h : p.atLeast .configured = true) : phaseAfterRaw p = .sampling := by
  revert h; cases p <;> decide

end Sys2Proof.Machine
end

