-- ==== Sys2Proof/Laws/PerInstr.lean ====
section
/-! SUPPORT. Families of statements about each command as syntax. -/

namespace Sys2Proof

open Sys2Proof.Reference

/-- The masks of rule R100 are the reserved bits of the formats' tables (R91–R97). -/
theorem reservedMask_getLsbD (f : Format) : ∀ k < 64, (reservedMask f).getLsbD k = reservedPosition f k := by
  cases f <;> decide

end Sys2Proof

namespace Sys2Proof.Laws.Encoding

open Sys2Proof.Reference

/-- The word of a command carries its opcode in bits 63:56 and has every reserved operand bit 0 (R90–R97, R100). -/
def Statement (i : Instr) : Prop := opcodeOf (encode i) = i.opcode ∧ encode i &&& reservedMask i.format = 0#64

/-- It is enough to look at the operand area. -/
theorem of_operandArea {i : Instr}
    (h : ∀ k < 56, reservedPosition i.format k = true → i.operandArea.getLsbD k = false) : Statement i := by
  refine ⟨opcodeOf_encode i, ?_⟩
  apply BitVec.eq_of_getLsbD_eq
  intro k hk
  rw [BitVec.getLsbD_and, reservedMask_getLsbD _ k hk, encode, BitVec.getLsbD_append]
  by_cases hk56 : k < 56
  · simp only [hk56, BitVec.getLsbD_zero, Bool.and_eq_false_iff]
    cases hr : reservedPosition i.format k
    · exact .inr rfl
    · exact .inl (h k hk56 hr)
  · have : reservedPosition i.format k = false := by
      cases i.format <;> simp [reservedPosition] <;> omega
    simp [this]

/-- No command sets an operand bit that its format reserves (R91–R97). -/
theorem operandArea_reserved (i : Instr) :
    ∀ k < 56, reservedPosition i.format k = true → i.operandArea.getLsbD k = false := by
  cases i <;> simp only [Instr.operandArea, Instr.format, reservedPosition, BitVec.getLsbD_append,
    BitVec.getLsbD_zero] <;> grind

theorem reset : Statement .reset := of_operandArea (operandArea_reserved _)

theorem loadCalib : Statement .loadCalib := of_operandArea (operandArea_reserved _)

theorem applyConfig (f : ConfigFields) : Statement (.applyConfig f) := of_operandArea (operandArea_reserved _)

theorem readStatus : Statement .readStatus := of_operandArea (operandArea_reserved _)

theorem readRaw : Statement .readRaw := of_operandArea (operandArea_reserved _)

theorem readChipId : Statement .readChipId := of_operandArea (operandArea_reserved _)

theorem encodeConfig (f : ConfigFields) : Statement (.encodeConfig f) := of_operandArea (operandArea_reserved _)

theorem decodeConfig (cfg ctrl : BitVec 8) : Statement (.decodeConfig cfg ctrl) := of_operandArea (operandArea_reserved _)

theorem decodeStatus (sb : BitVec 8) : Statement (.decodeStatus sb) := of_operandArea (operandArea_reserved _)

theorem compTA (adcT : BitVec 20) : Statement (.compTA adcT) := of_operandArea (operandArea_reserved _)

theorem compTB (adcT : BitVec 20) : Statement (.compTB adcT) := of_operandArea (operandArea_reserved _)

theorem compTC (adcT : BitVec 20) : Statement (.compTC adcT) := of_operandArea (operandArea_reserved _)

theorem compPA (adcP : BitVec 20) : Statement (.compPA adcP) := of_operandArea (operandArea_reserved _)

theorem compPB (adcP : BitVec 20) : Statement (.compPB adcP) := of_operandArea (operandArea_reserved _)

theorem compPC (adcP : BitVec 20) : Statement (.compPC adcP) := of_operandArea (operandArea_reserved _)

theorem compTPA (adcT adcP : BitVec 20) : Statement (.compTPA adcT adcP) := of_operandArea (operandArea_reserved _)

theorem compTPB (adcT adcP : BitVec 20) : Statement (.compTPB adcT adcP) := of_operandArea (operandArea_reserved _)

theorem compTPC (adcT adcP : BitVec 20) : Statement (.compTPC adcT adcP) := of_operandArea (operandArea_reserved _)

end Sys2Proof.Laws.Encoding
end

