-- ==== Sys2Proof/Laws/Rounding.lean ====
section
/-! SUPPORT. The binary64 arithmetic against the numbers it stands for: the value of a packed result, and that
`f64Round` rounds to nearest with ties to even. -/

namespace Sys2Proof.Machine

open Sys2Proof.Reference

/-- The sign as a factor. -/
def signFactor (neg : Bool) : ℚ := if neg then -1 else 1

theorem signFactor_abs (neg : Bool) : |signFactor neg| = 1 := by cases neg <;> simp [signFactor]

theorem signFactor_mul_self (neg : Bool) : signFactor neg * signFactor neg = 1 := by
  cases neg <;> simp [signFactor]

theorem f64OfMagnitude_toNat (neg : Bool) {bits : ℕ} (h : bits < 2 ^ 63) :
    (f64OfMagnitude neg bits).toNat = (if neg then 2 ^ 63 else 0) + bits := by
  unfold f64OfMagnitude
  rw [BitVec.toNat_ofNat]
  apply Nat.mod_eq_of_lt
  cases neg <;> simp <;> omega

theorem f64OfMagnitude_sign (neg : Bool) {bits : ℕ} (h : bits < 2 ^ 63) :
    (f64OfMagnitude neg bits).getLsbD 63 = neg := by
  have ht := f64OfMagnitude_toNat neg h
  have : (f64OfMagnitude neg bits).getLsbD 63 = decide (2 ^ 63 ≤ (f64OfMagnitude neg bits).toNat) := by
    rw [BitVec.getLsbD, Nat.testBit_eq_decide_div_mod_eq]
    have := (f64OfMagnitude neg bits).isLt
    simp only [decide_eq_decide]
    omega
  rw [this, ht]
  cases neg <;> simp <;> omega

theorem f64OfMagnitude_low (neg : Bool) {bits : ℕ} (h : bits < 2 ^ 63) :
    (f64OfMagnitude neg bits).getLsbD 0 = decide (bits % 2 = 1) := by
  have ht := f64OfMagnitude_toNat neg h
  rw [BitVec.getLsbD, Nat.testBit_zero, ht]
  cases neg <;> simp [Nat.add_mod]

/-- The value of a packed finite result with last place `a - 1074`; `m` may have carried to 2^53. -/
theorem f64Value_ofMagnitude (neg : Bool) {a m : ℕ} (hm : m ≤ 2 ^ 53) (ha : a = 0 ∨ 2 ^ 52 ≤ m)
    (hb : a * 2 ^ 52 + m < f64InfBits) :
    f64Value (f64OfMagnitude neg (a * 2 ^ 52 + m)) =
      some (signFactor neg * m * (2 : ℚ) ^ ((a : ℤ) - 1074)) := by
  have hb' : a * 2 ^ 52 + m < 2047 * 2 ^ 52 := hb
  have h63 : a * 2 ^ 52 + m < 2 ^ 63 := by omega
  have ht := f64OfMagnitude_toNat neg h63
  have hs := f64OfMagnitude_sign neg h63
  have two : (2 : ℚ) ≠ 0 := by norm_num
  have hexp : (f64OfMagnitude neg (a * 2 ^ 52 + m)).toNat / 2 ^ 52 % 2 ^ 11 = (a * 2 ^ 52 + m) / 2 ^ 52 := by
    rw [ht]; cases neg <;> simp <;> omega
  have hfrac : (f64OfMagnitude neg (a * 2 ^ 52 + m)).toNat % 2 ^ 52 = m % 2 ^ 52 := by
    rw [ht]; cases neg <;> simp <;> omega
  unfold f64Value
  simp only [hexp, hfrac, hs]
  rcases Nat.lt_or_ge m (2 ^ 52) with hlt | hge
  · have ha0 : a = 0 := by omega
    subst ha0
    have h1 : (0 * 2 ^ 52 + m) / 2 ^ 52 = 0 := by omega
    have h2 : m % 2 ^ 52 = m := by omega
    rw [h1, h2, if_neg (by norm_num), if_pos rfl]
    simp only [signFactor]
    norm_num
  · rcases Nat.lt_or_ge m (2 ^ 53) with hlt | hge2
    · have h1 : (a * 2 ^ 52 + m) / 2 ^ 52 = a + 1 := by omega
      have h2 : m % 2 ^ 52 = m - 2 ^ 52 := by omega
      rw [h1, h2, if_neg (by omega), if_neg (by omega), Nat.cast_sub hge]
      simp only [signFactor]
      congr 1
      push_cast
      rw [show ((a : ℤ) + 1 - 1075) = (a : ℤ) - 1074 by ring]
      ring
    · have hm53 : m = 2 ^ 53 := by omega
      have h1 : (a * 2 ^ 52 + m) / 2 ^ 52 = a + 2 := by omega
      have h2 : m % 2 ^ 52 = 0 := by omega
      rw [h1, h2, if_neg (by omega), if_neg (by omega), hm53]
      simp only [signFactor]
      congr 1
      push_cast
      rw [show ((a : ℤ) + 2 - 1075) = ((a : ℤ) - 1074) + 1 by ring, zpow_add₀ two]
      ring

/-- A finite value by its fields: a subnormal or zero, or a normal number (R10, R175). -/
theorem f64Value_fields {x : F64} {w : ℚ} (h : f64Value x = some w) :
    ∃ (m : ℕ) (q : ℤ), m < 2 ^ 53 ∧ -1074 ≤ q ∧ w = signFactor (x.getLsbD 63) * m * (2 : ℚ) ^ q := by
  unfold f64Value at h
  have hf : x.toNat % 2 ^ 52 < 2 ^ 52 := Nat.mod_lt _ (by norm_num)
  revert h hf
  simp only
  generalize x.toNat % 2 ^ 52 = frac
  generalize x.toNat / 2 ^ 52 % 2 ^ 11 = expo
  intro h hf
  by_cases h1 : expo = 2047
  · simp [h1] at h
  · by_cases h2 : expo = 0
    · rw [if_neg h1, if_pos h2] at h
      exact ⟨frac, -1074, by omega, le_refl _, (Option.some.inj h).symm⟩
    · rw [if_neg h1, if_neg h2] at h
      refine ⟨2 ^ 52 + frac, (expo : ℤ) - 1075, by omega, by omega, ?_⟩
      push_cast
      exact (Option.some.inj h).symm

/-- Every finite value is an integer of at most 53 bits times a power of two from 2^-1074 on. -/
theorem f64Value_dyadic {x : F64} {w : ℚ} (h : f64Value x = some w) :
    ∃ (k q : ℤ), |k| < 2 ^ 53 ∧ -1074 ≤ q ∧ w = k * (2 : ℚ) ^ q := by
  obtain ⟨m, q, hm, hq, hw⟩ := f64Value_fields h
  cases hs : x.getLsbD 63
  · refine ⟨m, q, by rw [abs_of_nonneg (by positivity)]; exact_mod_cast hm, hq, ?_⟩
    rw [hw, hs, signFactor, if_neg (by simp)]; push_cast; rw [one_mul]
  · refine ⟨-m, q, by rw [abs_neg, abs_of_nonneg (by positivity)]; exact_mod_cast hm, hq, ?_⟩
    rw [hw, hs, signFactor, if_pos rfl]; push_cast; rw [neg_one_mul]

/-- `f64Unpack` and the value of a bit pattern agree. -/
theorem f64Value_of_unpack {x : F64} {neg : Bool} {m : ℕ} {e : ℤ} (h : f64Unpack x = .fin neg m e) :
    f64Value x = some (signFactor neg * m * (2 : ℚ) ^ e) := by
  unfold f64Unpack at h
  unfold f64Value
  have e1 : (x.extractLsb' 52 11).toNat = x.toNat / 2 ^ 52 % 2 ^ 11 := by
    simp only [BitVec.extractLsb'_toNat, Nat.shiftRight_eq_div_pow]
  have e2 : (x.extractLsb' 0 52).toNat = x.toNat % 2 ^ 52 := by
    simp only [BitVec.extractLsb'_toNat, Nat.shiftRight_zero]
  simp only [e1, e2] at h
  revert h
  simp only
  generalize x.toNat % 2 ^ 52 = frac
  generalize x.toNat / 2 ^ 52 % 2 ^ 11 = expo
  generalize x.getLsbD 63 = sgn
  intro h
  by_cases h1 : expo = 2047
  · simp only [if_pos h1] at h; split_ifs at h
  · by_cases h2 : expo = 0
    · rw [if_neg h1, if_pos h2] at h ⊢
      simp only [FloatVal.fin.injEq] at h
      obtain ⟨rfl, rfl, rfl⟩ := h
      rfl
    · rw [if_neg h1, if_neg h2] at h ⊢
      simp only [FloatVal.fin.injEq] at h
      obtain ⟨rfl, rfl, rfl⟩ := h
      push_cast
      rfl

/-- A bit pattern with a value unpacks to a finite number. -/
theorem f64Unpack_of_value {x : F64} {w : ℚ} (h : f64Value x = some w) :
    ∃ neg m e, f64Unpack x = .fin neg m e ∧ w = signFactor neg * m * (2 : ℚ) ^ e := by
  cases hx : f64Unpack x with
  | fin neg m e =>
    refine ⟨neg, m, e, rfl, ?_⟩
    rw [f64Value_of_unpack hx] at h
    exact (Option.some.inj h).symm
  | nan => exact absurd h (by
      unfold f64Unpack at hx; unfold f64Value
      have e1 : (x.extractLsb' 52 11).toNat = x.toNat / 2 ^ 52 % 2 ^ 11 := by
        simp only [BitVec.extractLsb'_toNat, Nat.shiftRight_eq_div_pow]
      simp only [e1] at hx
      split_ifs at hx with h1 h2; simp_all)
  | inf b => exact absurd h (by
      unfold f64Unpack at hx; unfold f64Value
      have e1 : (x.extractLsb' 52 11).toNat = x.toNat / 2 ^ 52 % 2 ^ 11 := by
        simp only [BitVec.extractLsb'_toNat, Nat.shiftRight_eq_div_pow]
      simp only [e1] at hx
      split_ifs at hx with h1 h2; simp_all)

/-- The rounding on magnitudes: the last place, the rounded integer and how near it is. -/
theorem roundMagnitude_spec {n d : ℕ} (e : ℤ) (hn : 0 < n) (hd : 0 < d) :
    ∃ a m : ℕ, roundMagnitude n d e = min (a * 2 ^ 52 + m) f64InfBits ∧ m ≤ 2 ^ 53 ∧
      (a = 0 ∨ 2 ^ 52 ≤ m) ∧
      (n : ℚ) / d * 2 ^ e < 2 ^ 53 * (2 : ℚ) ^ ((a : ℤ) - 1074) ∧
      (a = 0 ∨ 2 ^ 52 * (2 : ℚ) ^ ((a : ℤ) - 1074) ≤ (n : ℚ) / d * 2 ^ e) ∧
      2 * |(m : ℚ) - (n : ℚ) / d * 2 ^ e / 2 ^ ((a : ℤ) - 1074)| ≤ 1 ∧
      (2 * |(m : ℚ) - (n : ℚ) / d * 2 ^ e / 2 ^ ((a : ℤ) - 1074)| = 1 → m % 2 = 0) := by
  have two : (2 : ℚ) ≠ 0 := by norm_num
  have hdq : (0 : ℚ) < d := by exact_mod_cast hd
  obtain ⟨klo, khi⟩ := floorLog2_spec hn hd
  set k := floorLog2 n d with hk
  have hq : lastPlace n d e = max (k + e - 52) (-1074) := rfl
  set q := lastPlace n d e with hqdef
  have hqge : -1074 ≤ q := by rw [hq]; exact le_max_right _ _
  obtain ⟨a, ha⟩ : ∃ a : ℕ, (a : ℤ) = q + 1074 := ⟨(q + 1074).toNat, by omega⟩
  have haq : (a : ℤ) - 1074 = q := by omega
  have hB : 0 < d * 2 ^ (q - e).toNat := by positivity
  have hfrac : ((n * 2 ^ (e - q).toNat : ℕ) : ℚ) / ((d * 2 ^ (q - e).toNat : ℕ) : ℚ) =
      (n : ℚ) / d * 2 ^ e / 2 ^ q := by
    push_cast
    have h1 : (2 : ℚ) ^ (e - q).toNat * 2 ^ q = 2 ^ e * 2 ^ (q - e).toNat := by
      rw [← zpow_natCast, ← zpow_natCast, ← zpow_add₀ two, ← zpow_add₀ two]; congr 1; omega
    have hp1 : (2 : ℚ) ^ q ≠ 0 := zpow_ne_zero _ two
    field_simp
    linear_combination h1
  obtain ⟨near, tie⟩ := nearestEven_spec (n * 2 ^ (e - q).toNat) hB
  rw [hfrac] at near tie
  set m := nearestEven (n * 2 ^ (e - q).toNat) (d * 2 ^ (q - e).toNat) with hm
  have hpq : (0 : ℚ) < 2 ^ q := by positivity
  have hpe : (0 : ℚ) < 2 ^ e := by positivity
  have hX : (n : ℚ) / d * 2 ^ e < 2 ^ 53 * (2 : ℚ) ^ q := by
    calc (n : ℚ) / d * 2 ^ e < 2 ^ (k + 1) * 2 ^ e := by gcongr
      _ = 2 ^ (k + 1 + e) := by rw [← zpow_add₀ two]
      _ ≤ 2 ^ ((53 : ℤ) + q) := by
        apply zpow_le_zpow_right₀ (by norm_num)
        have := le_max_left (k + e - 52) (-1074)
        omega
      _ = 2 ^ 53 * (2 : ℚ) ^ q := by rw [zpow_add₀ two]; norm_num
  have hY : a = 0 ∨ 2 ^ 52 * (2 : ℚ) ^ q ≤ (n : ℚ) / d * 2 ^ e := by
    rcases le_or_gt (k + e - 52) (-1074) with hle | hgt
    · left; rw [max_eq_right hle] at hq; omega
    · right
      rw [max_eq_left hgt.le] at hq
      calc (2 : ℚ) ^ 52 * 2 ^ q = 2 ^ ((52 : ℤ) + q) := by rw [zpow_add₀ two]; norm_num
        _ = 2 ^ (k + e) := by congr 1; omega
        _ = 2 ^ k * 2 ^ e := by rw [zpow_add₀ two]
        _ ≤ (n : ℚ) / d * 2 ^ e := by gcongr
  set y := (n : ℚ) / d * 2 ^ e / 2 ^ q with hy
  have habs := abs_le.mp (by linarith : |(m : ℚ) - y| ≤ 1 / 2)
  have hy53 : y < 2 ^ 53 := by rw [hy, div_lt_iff₀ hpq]; exact hX
  refine ⟨a, m, ?_, ?_, ?_, by rw [haq]; exact hX, by rw [haq]; exact hY, by rw [haq]; exact near,
    by rw [haq]; exact tie⟩
  · unfold roundMagnitude
    rw [if_neg hn.ne']
    simp only [← hqdef, ← hm]
    rw [show (q + 1074).toNat = a by omega]
  · have : (m : ℚ) < 2 ^ 53 + 1 := by linarith [habs.2]
    have : m < 2 ^ 53 + 1 := by exact_mod_cast this
    omega
  · rcases hY with h | h
    · exact .inl h
    · right
      have : (2 : ℚ) ^ 52 ≤ y := by rw [hy, le_div_iff₀ hpq]; exact h
      have : (2 : ℚ) ^ 52 < m + 1 := by linarith [habs.1]
      have : 2 ^ 52 < m + 1 := by exact_mod_cast this
      omega

/-- A nearest integer is as near as any integer, and a different one as near makes it a tie. -/
theorem nearest_integer {m : ℤ} {y : ℚ} (h : 2 * |(m : ℚ) - y| ≤ 1) (k : ℤ) :
    |(m : ℚ) - y| ≤ |(k : ℚ) - y| ∧ (k ≠ m → |(k : ℚ) - y| = |(m : ℚ) - y| → 2 * |(m : ℚ) - y| = 1) := by
  by_cases hk : k = m
  · subst hk; exact ⟨le_refl _, fun hne => absurd rfl hne⟩
  · have h1 : (1 : ℚ) ≤ |(k : ℚ) - m| := by
      have : 1 ≤ |k - m| := Int.one_le_abs (sub_ne_zero.mpr hk)
      exact_mod_cast this
    have h2 : |(k : ℚ) - m| ≤ |(k : ℚ) - y| + |(m : ℚ) - y| := by
      have := abs_sub_le (k : ℚ) y m
      rwa [abs_sub_comm y] at this
    exact ⟨by linarith, fun _ heq => by linarith⟩

/-- The overflow bound lies half a unit past the largest finite number. -/
theorem overflowBound_eq : overflowBound = (2 ^ 53 - 1 / 2) * (2 : ℚ) ^ (971 : ℤ) := by
  unfold overflowBound
  have : (2 : ℚ) ^ (971 : ℤ) = 2 * 2 ^ 970 := by rw [show (971 : ℤ) = ((971 : ℕ) : ℤ) by rfl, zpow_natCast, pow_succ']
  rw [this, show (2 : ℚ) ^ 1024 = 2 ^ 54 * 2 ^ 970 by rw [← pow_add]]
  ring

/-- A packed magnitude reaches infinity exactly from the overflow bound on. -/
theorem lt_infBits_iff {a m : ℕ} {x : ℚ} (hm : m ≤ 2 ^ 53) (ham : a = 0 ∨ 2 ^ 52 ≤ m)
    (hhi : x < 2 ^ 53 * (2 : ℚ) ^ ((a : ℤ) - 1074))
    (hlo : a = 0 ∨ 2 ^ 52 * (2 : ℚ) ^ ((a : ℤ) - 1074) ≤ x)
    (near : 2 * |(m : ℚ) - x / 2 ^ ((a : ℤ) - 1074)| ≤ 1)
    (tie : 2 * |(m : ℚ) - x / 2 ^ ((a : ℤ) - 1074)| = 1 → m % 2 = 0) :
    a * 2 ^ 52 + m < f64InfBits ↔ x < overflowBound := by
  have two : (2 : ℚ) ≠ 0 := by norm_num
  have h971 : (0 : ℚ) < 2 ^ (971 : ℤ) := by positivity
  have hinf : f64InfBits = 2047 * 2 ^ 52 := rfl
  have hu : (0 : ℚ) < 2 ^ ((a : ℤ) - 1074) := by positivity
  rw [overflowBound_eq, hinf]
  rcases Nat.lt_trichotomy a 2045 with ha | ha | ha
  · refine iff_of_true (by omega) ?_
    calc x < 2 ^ 53 * (2 : ℚ) ^ ((a : ℤ) - 1074) := hhi
      _ ≤ 2 ^ 53 * (2 : ℚ) ^ (970 : ℤ) :=
        mul_le_mul_of_nonneg_left (zpow_le_zpow_right₀ (by norm_num) (by omega)) (by norm_num)
      _ ≤ (2 ^ 53 - 1 / 2) * (2 : ℚ) ^ (971 : ℤ) := by
        have h2 : (2 : ℚ) ^ (971 : ℤ) = 2 ^ (970 : ℤ) * 2 := by
          rw [show (971 : ℤ) = 970 + 1 by norm_num, zpow_add₀ two, zpow_one]
        have hp : (0 : ℚ) < 2 ^ (970 : ℤ) := by positivity
        rw [h2]
        generalize (2 : ℚ) ^ (970 : ℤ) = P at hp
        norm_num
        linarith
  · subst ha
    rw [show (((2045 : ℕ) : ℤ) - 1074) = 971 by norm_num] at near tie
    constructor
    · intro h
      have hm' : m ≤ 2 ^ 53 - 1 := by omega
      have hmq : (m : ℚ) ≤ 2 ^ 53 - 1 := by
        have : (m : ℚ) ≤ ((2 ^ 53 - 1 : ℕ) : ℚ) := by exact_mod_cast hm'
        norm_num at this ⊢; exact this
      have habs := abs_le.mp (by linarith : |(m : ℚ) - x / 2 ^ (971 : ℤ)| ≤ 1 / 2)
      rw [← div_lt_iff₀ h971]
      refine lt_of_le_of_ne (by linarith [habs.1]) (fun heq => ?_)
      have hmeq : (m : ℚ) = 2 ^ 53 - 1 := by linarith [habs.1]
      have hodd : m = 2 ^ 53 - 1 := by
        have : (m : ℚ) = ((2 ^ 53 - 1 : ℕ) : ℚ) := by rw [hmeq]; norm_num
        exact_mod_cast this
      have : m % 2 = 0 := tie (by rw [heq, hmeq]; norm_num)
      omega
    · intro h
      rw [← div_lt_iff₀ h971] at h
      have habs := abs_le.mp (by linarith : |(m : ℚ) - x / 2 ^ (971 : ℤ)| ≤ 1 / 2)
      have : (m : ℚ) < 2 ^ 53 := by linarith [habs.2]
      have : m < 2 ^ 53 := by exact_mod_cast this
      omega
  · have hx : (2 ^ 53 - 1 / 2) * (2 : ℚ) ^ (971 : ℤ) ≤ x := by
      have h52 := hlo.resolve_left (by omega)
      calc (2 ^ 53 - 1 / 2) * (2 : ℚ) ^ (971 : ℤ) ≤ 2 ^ 52 * (2 : ℚ) ^ (972 : ℤ) := by
            have h2 : (2 : ℚ) ^ (972 : ℤ) = 2 ^ (971 : ℤ) * 2 := by
              rw [show (972 : ℤ) = 971 + 1 by norm_num, zpow_add₀ two, zpow_one]
            rw [h2]
            generalize (2 : ℚ) ^ (971 : ℤ) = P at h971
            norm_num
            linarith
        _ ≤ 2 ^ 52 * (2 : ℚ) ^ ((a : ℤ) - 1074) :=
          mul_le_mul_of_nonneg_left (zpow_le_zpow_right₀ (by norm_num) (by omega)) (by norm_num)
        _ ≤ x := h52
    exact iff_of_false (by omega) (not_lt.mpr hx)

/-- `f64Round` rounds a nonzero number to nearest, ties to even (R10, R175). -/
theorem f64Round_correct (neg : Bool) {n d : ℕ} (e : ℤ) (hn : 0 < n) (hd : 0 < d) :
    CorrectlyRounded (signFactor neg * ((n : ℚ) / d * 2 ^ e)) (f64Round neg n d e) := by
  have two : (2 : ℚ) ≠ 0 := by norm_num
  have hdq : (0 : ℚ) < d := by exact_mod_cast hd
  have hnq : (0 : ℚ) < n := by exact_mod_cast hn
  obtain ⟨a, m, hbits, hm, ham, hhi, hlo, near, tie⟩ := roundMagnitude_spec e hn hd
  have hX : (0 : ℚ) < (n : ℚ) / d * 2 ^ e := by positivity
  set x := (n : ℚ) / d * 2 ^ e with hx
  have hiff := lt_infBits_iff hm ham hhi hlo near tie
  have habs : |signFactor neg * x| = x := by rw [abs_mul, signFactor_abs, one_mul, abs_of_pos hX]
  have hinf : f64InfBits = 2047 * 2 ^ 52 := rfl
  have hb63 : roundMagnitude n d e < 2 ^ 63 := by
    rw [hbits]; exact lt_of_le_of_lt (min_le_right _ _) (by norm_num [hinf])
  have hsign : (f64Round neg n d e).getLsbD 63 = neg := f64OfMagnitude_sign neg hb63
  have hu : (0 : ℚ) < 2 ^ ((a : ℤ) - 1074) := by positivity
  refine ⟨?_, ?_, ?_, ?_⟩
  · rw [habs]
    intro hov
    have hlt := hiff.mpr hov
    have hround : f64Round neg n d e = f64OfMagnitude neg (a * 2 ^ 52 + m) := by
      unfold f64Round; rw [hbits, min_eq_left hlt.le]
    refine ⟨signFactor neg * m * 2 ^ ((a : ℤ) - 1074), by rw [hround]; exact f64Value_ofMagnitude neg hm ham hlt, ?_⟩
    -- distances measured in units of the last place, with the sign taken off
    have dist : ∀ w : ℚ, |w - signFactor neg * x| =
        |signFactor neg * w / 2 ^ ((a : ℤ) - 1074) - x / 2 ^ ((a : ℤ) - 1074)| * 2 ^ ((a : ℤ) - 1074) := by
      intro w
      rw [← sub_div, abs_div, abs_of_pos hu, div_mul_cancel₀ _ hu.ne']
      calc |w - signFactor neg * x| = |signFactor neg * (w - signFactor neg * x)| := by
            rw [abs_mul, signFactor_abs, one_mul]
        _ = |signFactor neg * w - signFactor neg * signFactor neg * x| := by ring_nf
        _ = |signFactor neg * w - x| := by rw [signFactor_mul_self, one_mul]
    have unit_z : signFactor neg * (signFactor neg * m * 2 ^ ((a : ℤ) - 1074)) / 2 ^ ((a : ℤ) - 1074) = m := by
      rw [← mul_assoc, ← mul_assoc, signFactor_mul_self, one_mul, mul_div_assoc, div_self hu.ne', mul_one]
    have nearZ : 2 * |((m : ℤ) : ℚ) - x / 2 ^ ((a : ℤ) - 1074)| ≤ 1 := by simpa using near
    have key : ∀ y w, f64Value y = some w →
        |(m : ℚ) - x / 2 ^ ((a : ℤ) - 1074)| ≤
          |signFactor neg * w / 2 ^ ((a : ℤ) - 1074) - x / 2 ^ ((a : ℤ) - 1074)| ∧
        (signFactor neg * w / 2 ^ ((a : ℤ) - 1074) ≠ m →
          |signFactor neg * w / 2 ^ ((a : ℤ) - 1074) - x / 2 ^ ((a : ℤ) - 1074)| =
            |(m : ℚ) - x / 2 ^ ((a : ℤ) - 1074)| →
          2 * |(m : ℚ) - x / 2 ^ ((a : ℤ) - 1074)| = 1) := by
      intro y w hy
      obtain ⟨k, q, hk, hq, hw⟩ := f64Value_dyadic hy
      rcases le_or_gt ((a : ℤ) - 1074) q with hge | hlt'
      · obtain ⟨j, hj⟩ : ∃ j : ℤ, signFactor neg * w / 2 ^ ((a : ℤ) - 1074) = j := by
          refine ⟨(if neg then -1 else 1) * k * 2 ^ (q - ((a : ℤ) - 1074)).toNat, ?_⟩
          rw [hw, div_eq_iff hu.ne']
          have : (2 : ℚ) ^ q = 2 ^ (q - ((a : ℤ) - 1074)).toNat * 2 ^ ((a : ℤ) - 1074) := by
            rw [← zpow_natCast, ← zpow_add₀ two]; congr 1; omega
          rw [this]
          cases neg <;> simp [signFactor] <;> ring
        rw [hj]
        obtain ⟨h1, h2⟩ := nearest_integer nearZ j
        refine ⟨by simpa using h1, fun hne heq => ?_⟩
        have := h2 (fun hc => hne (by rw [hc]; simp)) (by simpa using heq)
        simpa using this
      · have ha0 : a ≠ 0 := by omega
        have hy52 : (2 : ℚ) ^ 52 ≤ x / 2 ^ ((a : ℤ) - 1074) := by
          rw [le_div_iff₀ hu]; exact hlo.resolve_left ha0
        have hw52 : signFactor neg * w / 2 ^ ((a : ℤ) - 1074) < 2 ^ 52 := by
          rw [div_lt_iff₀ hu]
          have hkq : |(k : ℚ)| < 2 ^ 53 := by exact_mod_cast hk
          have hpq : (0 : ℚ) < 2 ^ q := by positivity
          calc signFactor neg * w ≤ |signFactor neg * w| := le_abs_self _
            _ = |(k : ℚ)| * 2 ^ q := by rw [abs_mul, signFactor_abs, one_mul, hw, abs_mul, abs_of_pos hpq]
            _ < 2 ^ 53 * 2 ^ q := by gcongr
            _ = 2 ^ 52 * 2 ^ (q + 1) := by rw [zpow_add₀ two]; ring
            _ ≤ 2 ^ 52 * 2 ^ ((a : ℤ) - 1074) :=
              mul_le_mul_of_nonneg_left (zpow_le_zpow_right₀ (by norm_num) (by omega)) (by norm_num)
        have h52 := (nearest_integer nearZ (2 ^ 52)).1
        have h52' : |(m : ℚ) - x / 2 ^ ((a : ℤ) - 1074)| ≤ x / 2 ^ ((a : ℤ) - 1074) - 2 ^ 52 := by
          rw [Int.cast_natCast, Int.cast_pow, Int.cast_ofNat, abs_sub_comm (2 ^ 52 : ℚ),
            abs_of_nonneg (sub_nonneg.mpr hy52)] at h52
          exact h52
        have hgt : |(m : ℚ) - x / 2 ^ ((a : ℤ) - 1074)| <
            |signFactor neg * w / 2 ^ ((a : ℤ) - 1074) - x / 2 ^ ((a : ℤ) - 1074)| := by
          rw [abs_sub_comm (signFactor neg * w / 2 ^ ((a : ℤ) - 1074)),
            abs_of_pos (sub_pos.mpr (lt_of_lt_of_le hw52 hy52))]
          exact lt_of_le_of_lt h52' (sub_lt_sub_left hw52 _)
        exact ⟨hgt.le, fun _ heq => absurd heq (ne_of_gt hgt)⟩
    refine ⟨fun y w hy => ?_, fun y w hy hne heq => ?_⟩
    · rw [dist, dist, unit_z]
      exact mul_le_mul_of_nonneg_right (key y w hy).1 hu.le
    · rw [dist, dist, unit_z] at heq
      have htie := (key y w hy).2 (fun hc => hne (by
        rw [← unit_z, div_left_inj' hu.ne'] at hc
        have h0 : signFactor neg ≠ 0 := by cases neg <;> simp [signFactor]
        exact mul_left_cancel₀ h0 hc)) (mul_right_cancel₀ hu.ne' heq)
      have heven := tie htie
      rw [hround, f64OfMagnitude_low neg (by omega)]
      simp only [decide_eq_false_iff_not]
      omega
  · rw [habs]
    intro hov
    have hge : f64InfBits ≤ a * 2 ^ 52 + m := not_lt.mp (fun h => absurd (hiff.mp h) (not_lt.mpr hov))
    have hneg : decide (signFactor neg * x < 0) = neg := by
      cases neg <;> simp [signFactor] <;> linarith
    unfold f64Round f64Inf
    rw [hbits, min_eq_right hge, hneg]
  · intro h
    rw [hsign]
    cases neg
    · simp [signFactor] at h; linarith
    · rfl
  · intro h
    rw [hsign]
    cases neg
    · rfl
    · simp [signFactor] at h; linarith

/-- A zero is the number 0, exactly. -/
theorem f64Value_zero (neg : Bool) : f64Value (f64Zero neg) = some 0 := by
  have h := f64Value_ofMagnitude neg (a := 0) (m := 0) (by norm_num) (.inl rfl) (by norm_num [f64InfBits])
  simpa [f64Zero] using h

theorem f64Zero_correct (neg : Bool) : CorrectlyRounded 0 (f64Zero neg) := by
  refine ⟨fun _ => ⟨0, f64Value_zero neg, fun y w _ => by simp, fun y w _ hne heq => ?_⟩, fun h => ?_,
    fun h => absurd h (lt_irrefl _), fun h => absurd h (lt_irrefl _)⟩
  · simp at heq; exact absurd heq hne
  · exfalso
    rw [abs_zero, overflowBound_eq] at h
    exact absurd h (not_le.mpr (mul_pos (by norm_num) (by positivity)))

end Sys2Proof.Machine
end

