-- ==== Sys2Proof/Laws/Step.lean ====
section
/-! SUPPORT. What `exec` and `step` can do, said once. -/

namespace Sys2Proof.Machine

/-- The precondition each command checks (R221). -/
def execReady (i : Instr) (s : State) : Bool :=
  match i with
  | .reset | .readStatus | .readChipId | .encodeConfig _ | .decodeConfig _ _ | .decodeStatus _ => true
  | .loadCalib => canLoadCalib s
  | .readRaw => rawReady s
  | .applyConfig _ | .compTA _ | .compTB _ | .compTC _ => calReady s
  | .compTPA _ _ | .compTPB _ _ | .compTPC _ _ => calReady s
  | .compPA _ | .compPB _ | .compPC _ => pressureReady s

/-- The state each command leaves where its precondition holds. -/
def execEffect (i : Instr) (s : State) : State :=
  match i with
  | .reset => { busWrite addrReset resetCode s with
      phase := .uninit, resetSeen := true, tFineValid := false, tFineSrc := 0 }
  | .loadCalib => loadCalibration s
  | .applyConfig f => applyConfiguration f s
  | .readStatus => writeStatusFlags (answerByte s 0)
      { busRead addrStatus 1 s with statusByte := .of (answerByte s 0) }
  | .readRaw => readRawSample s
  | .readChipId => { busRead addrChipId 1 s with chipId := .of (answerByte s 0) }
  | .encodeConfig f => writeEncoded f s
  | .decodeConfig cfg ctrl => { s with decFields := .of (bitsOfFields (unpackConfig cfg ctrl)) }
  | .decodeStatus sb => writeStatusFlags sb s
  | .compTA t => writeTempInt .a t s
  | .compTB t => writeTempF t s
  | .compTC t => writeTempInt .c t s
  | .compPA q => writePresA q s
  | .compPB q => writePresF q s
  | .compPC q => writePresC q s
  | .compTPA t q => writePresA q (writeTempInt .a t s)
  | .compTPB t q => writePresF q (writeTempF t s)
  | .compTPC t q => writePresC q (writeTempInt .c t s)

/-- Every command answers a next state: its effect where its precondition holds, else the PRECOND fault. -/
theorem exec_eq_next (i : Instr) (s : State) :
    exec i s = .next (if execReady i s then execEffect i s else raiseFault .precond (encode i) s) := by
  cases i <;> first | exact checked_eq_next _ _ _ _ | rfl

/-- A command whose precondition holds has its effect. -/
theorem exec_of_ready {i : Instr} {s : State} (h : execReady i s = true) : exec i s = .next (execEffect i s) := by
  rw [exec_eq_next, if_pos h]

/-- What a command answers, taken apart. -/
theorem exec_cases {i : Instr} {s t : State} (h : exec i s = .next t) :
    (execReady i s = true ∧ t = execEffect i s) ∨
      (execReady i s = false ∧ t = raiseFault .precond (encode i) s) := by
  rw [exec_eq_next] at h
  cases hr : execReady i s <;> simp [hr] at h <;> simp [h]

/-- One step, by what the host's next move is (R81, R100): the block waits, is reset, executes a command, or
records ILLEGAL. -/
theorem step_cases {s t : State} (h : step s = .next t) :
    (s.hostQueue = [] ∧ t = s) ∨
    (∃ rest, s.hostQueue = .powerOn :: rest ∧ t = powerOnReset (setQueue rest s)) ∨
    (∃ w rest i, s.hostQueue = .command w :: rest ∧ decode s.strategies w = .ok i ∧
      exec i (setQueue rest s) = .next t) ∨
    (∃ w rest e, s.hostQueue = .command w :: rest ∧ decode s.strategies w = .error e ∧
      t = raiseFault .illegal w (setQueue rest s)) := by
  unfold step nextMove at h
  cases hq : s.hostQueue with
  | nil => simp [hq] at h; exact .inl ⟨rfl, h.symm⟩
  | cons m rest =>
    cases m with
    | powerOn => simp [hq] at h; exact .inr (.inl ⟨rest, rfl, h.symm⟩)
    | command w =>
      simp only [hq, runWord, setQueue_strategies] at h
      cases hd : decode s.strategies w with
      | ok i => simp only [hd] at h; exact .inr (.inr (.inl ⟨w, rest, i, rfl, hd, h⟩))
      | error e =>
        simp only [hd] at h
        exact .inr (.inr (.inr ⟨w, rest, e, rfl, hd, by simpa using h.symm⟩))

/-- Every step answers a next state. -/
theorem step_eq_next (s : State) : ∃ t, step s = .next t := by
  unfold step runWord
  split
  · exact ⟨_, rfl⟩
  · exact ⟨_, rfl⟩
  · split
    · rw [exec_eq_next]; exact ⟨_, rfl⟩
    · exact ⟨_, rfl⟩

/-- No command that runs touches `FAULT`, the build or the host's moves. -/
@[simp] theorem execEffect_fault (i : Instr) (s : State) : (execEffect i s).fault = s.fault := by cases i <;> rfl
@[simp] theorem execEffect_faultCmd (i : Instr) (s : State) : (execEffect i s).faultCmd = s.faultCmd := by
  cases i <;> rfl
@[simp] theorem execEffect_strategies (i : Instr) (s : State) : (execEffect i s).strategies = s.strategies := by
  cases i <;> rfl
@[simp] theorem execEffect_hostQueue (i : Instr) (s : State) : (execEffect i s).hostQueue = s.hostQueue := by
  cases i <;> rfl

end Sys2Proof.Machine
end

