-- ==== Sys2Proof/Tests/Slice0.lean ====
section
/-! SUPPORT. The model's own tests: expected values from spec/95_test_vectors.md and the rules' worked examples, and a
witness for the hypotheses of each statement. -/

namespace Sys2Proof.Tests

open Sys2Proof.Machine Sys2Proof.Safety

/-! ### Well-formedness, decoding and encoding -/

/-- R100, V-ILL-13: with only strategy A built in, the commands of B and C do not exist. -/
theorem test_absentStrategy_illFormed :
    (Instr.compTB 519888).wellFormed ⟨true, false, false⟩ = false ∧
      (Instr.compPC 1).wellFormed ⟨true, true, false⟩ = false ∧
      (Instr.compTPA 1 1).wellFormed ⟨false, true, true⟩ = false ∧
      (Instr.compTA 0).wellFormed ⟨true, false, false⟩ = true := by decide

/-- R91, R99: the words of format N. -/
theorem test_decode_formatN :
    decode .all 0x0100000000000000#64 = .ok .reset ∧ decode .all 0x0200000000000000#64 = .ok .loadCalib ∧
      decode .all 0x0400000000000000#64 = .ok .readStatus ∧ decode .all 0x0500000000000000#64 = .ok .readRaw ∧
      decode .all 0x0600000000000000#64 = .ok .readChipId := by decide

/-- R92, V-SRC-2, V-COD-4, V-COD-5: the words of format CF. -/
theorem test_decode_formatCF :
    decode .all 0x03000000000021ED#64 = .ok (.applyConfig ⟨5, 5, 3, 1, 4, 0⟩) ∧
      decode .all 0x0800000000000049#64 = .ok (.encodeConfig ⟨1, 1, 1, 0, 0, 0⟩) ∧
      decode .all 0x08000000000055AA#64 = .ok (.encodeConfig ⟨2, 5, 2, 5, 2, 1⟩) := by decide

/-- R93, R94, V-COD-11, V-STAT-6: the words of formats CB and SB. -/
theorem test_decode_formatCB_SB :
    decode .all 0x090000000000A55A#64 = .ok (.decodeConfig 0xA5 0x5A) ∧
      decode .all 0x0A000000000000F6#64 = .ok (.decodeStatus 0xF6) := by decide

/-- R95–R97, R182–R190: the worked examples' words. -/
theorem test_decode_compensation :
    decode .all 0x100000000007EED0#64 = .ok (.compTA 519888) ∧
      decode .all 0x110000000007EED0#64 = .ok (.compTB 519888) ∧
      decode .all 0x120000000007EED0#64 = .ok (.compTC 519888) ∧
      decode .all 0x140000655AC00000#64 = .ok (.compPA 415148) ∧
      decode .all 0x150000655AC00000#64 = .ok (.compPB 415148) ∧
      decode .all 0x160000655AC00000#64 = .ok (.compPC 415148) ∧
      decode .all 0x180000655AC7EED0#64 = .ok (.compTPA 519888 415148) ∧
      decode .all 0x190000655AC7EED0#64 = .ok (.compTPB 519888 415148) ∧
      decode .all 0x1A0000655AC61A80#64 = .ok (.compTPC 400000 415148) := by decide

/-- V-ILL-1 to V-ILL-5: opcodes outside the map. -/
theorem test_decode_unknownOpcode :
    decode .all 0x0000000000000000#64 = .error .unknownOpcode ∧
      decode .all 0x0700000000000000#64 = .error .unknownOpcode ∧
      decode .all 0x1300000000000000#64 = .error .unknownOpcode ∧
      decode .all 0x1C00000000000000#64 = .error .unknownOpcode ∧
      decode .all 0xFF00000000000000#64 = .error .unknownOpcode := by decide

/-- V-ILL-6 to V-ILL-12: a reserved bit of each format. -/
theorem test_decode_reservedBit :
    decode .all 0x0100000000000001#64 = .error .reservedBit ∧
      decode .all 0x0300000000008000#64 = .error .reservedBit ∧
      decode .all 0x0900000000010000#64 = .error .reservedBit ∧
      decode .all 0x0A00000000000100#64 = .error .reservedBit ∧
      decode .all 0x1000000000100000#64 = .error .reservedBit ∧
      decode .all 0x1400000000000001#64 = .error .reservedBit ∧
      decode .all 0x1800010000000000#64 = .error .reservedBit := by decide

/-- V-ILL-13 and the unusual legal words that Part 3 lists. -/
theorem test_decode_absentStrategy_and_unusual :
    decode ⟨true, false, false⟩ 0x110000000007EED0#64 = .error .absentStrategy ∧
      decode .all 0x0900000000000200#64 = .ok (.decodeConfig 2 0) ∧
      decode .all 0x0300000000007FFF#64 = .ok (.applyConfig ⟨7, 7, 3, 7, 7, 1⟩) ∧
      decode .all 0x180000FFFFFFFFFF#64 = .ok (.compTPA 0xFFFFF 0xFFFFF) := by decide

/-- The encoder writes the same words (R104, R105). -/
theorem test_encode_words :
    encode (.applyConfig defaultConfig) = 0x03000000000021ED#64 ∧
      encode (.compPB 415148) = 0x150000655AC00000#64 ∧
      encode (.compTPC 400000 415148) = 0x1A0000655AC61A80#64 ∧
      encode (.decodeConfig 0xFD 0x27) = 0x090000000000FD27#64 := by decide

/-- The model's rows are those of spec/opcode_table.json, and no two of them overlap (R100). -/
theorem test_tableRows :
    tableRows.map (fun r => (r.opcode, r.matchBits, r.mask)) = Reference.opcodeTable ∧
      tableRows.Pairwise (fun r q => (r.matchBits ^^^ q.matchBits) &&& r.mask &&& q.mask ≠ 0#64) := by
  constructor <;> decide

/-- The numbering of spec/opcode_table.json. -/
theorem test_decodeTableWord :
    decodeTableWord 64 0x1A00000000000000 = some (.compTPC 0 0) ∧ decodeTableWord 64 0x0700000000000000 = none := by
  decide

/-- R104, R105: lines of text and their words. -/
theorem test_assembleText :
    assembleText "apply os_t=5, os_p=5, mode=3, odr=1, filter=4, spi3w=0" = some [0x03000000000021ED#64] ∧
      assembleText "deccfg cfg=0x30, ctrl=0xB7" = some [0x09000000000030B7#64] ∧
      assembleText "comptp.a 519888, 0x655AC" = some [0x180000655AC7EED0#64] ∧
      assembleText "compp.c 415148" = some [0x160000655AC00000#64] := by decide +kernel

/-- R104: missing operands, a value too large, and unknown text are refused. -/
theorem test_assembleText_refuses :
    assembleText "apply os_t=5, os_p=5, mode=3, odr=1, filter=4" = none ∧ assembleText "compt.b 0x100000" = none ∧
      assembleText "decstat 0x" = none ∧ assembleText "compt.d 1" = none ∧ assembleText "" = none := by decide +kernel

/-! ### Small states -/

/-- The reference calibration of 95_test_vectors.md. -/
def refCal : Calib :=
  ⟨27504, 26435, BitVec.ofInt 16 (-1000), 36477, BitVec.ofInt 16 (-10685), 3024, 2855, 140, BitVec.ofInt 16 (-7), 15500,
    BitVec.ofInt 16 (-14600), 6000⟩

/-- CAL_LOADED with a calibration store. -/
def loaded (c : Calib) : State := { State.reset with phase := .calLoaded, cal := .of c }

/-- CAL_LOADED with a store and a `t_fine` of strategy A. -/
def warm (c : Calib) (tFine : BitVec 32) : State :=
  { loaded c with tFine := .of tFine, tFineValid := true, tFineSrc := 1 }

/-- A phase with answers listed. -/
def answering (p : Phase) (bytes : List Byte) : State :=
  { State.reset with phase := p, resetSeen := true, answers := bytes }

/-- The state before a command word. -/
def before (w : CmdWord) (s : State) : State := { s with hostQueue := [.command w] }

/-- What a test looks at in the state an outcome answers. -/
def view {α : Type} (o : Host.Outcome State Fault Refusal) (f : State → α) : Option α :=
  match o with
  | .next s => some (f s)
  | _ => none

/-- The 24 bytes of V-CAL-1. -/
def calBytes : List Byte :=
  [0x70, 0x6B, 0x43, 0x67, 0x18, 0xFC, 0x7D, 0x8E, 0x43, 0xD6, 0xD0, 0x0B, 0x27, 0x0B, 0x8C, 0x00, 0xF9, 0xFF, 0x8C,
    0x3C, 0xF8, 0xC6, 0x70, 0x17]

/-- R24: the two unsigned words and a signed one, at values where the sign shows. -/
theorem test_calibWords_signs :
    (calib32 refCal .p1).toInt = 36477 ∧ (calib32 refCal .t3).toInt = -1000 ∧ (calib64 refCal .p1).toInt = 36477 ∧
      (calib64 refCal .p8).toInt = -14600 ∧ calibNumber refCal .p1 = 36477 ∧ calibNumber refCal .p2 = -10685 := by decide

/-! ### Codec (V-COD, V-STAT) -/

theorem test_encodeConfig_aliasCodes :
    view (exec (.encodeConfig ⟨6, 6, 0, 3, 5, 0⟩) .reset) (fun s => (s.encConfig.value, s.encCtrlMeas.value)) =
      some (0x74, 0xD8) := by decide

theorem test_encodeConfig_allOnes :
    view (exec (.encodeConfig ⟨7, 7, 3, 7, 7, 1⟩) .reset) (fun s => (s.encConfig.value, s.encCtrlMeas.value)) =
      some (0xFD, 0xFF) := by decide

theorem test_decodeConfig_vcod11 :
    view (exec (.decodeConfig 0xA5 0x5A) .reset) (fun s => s.decFields) = some (.of 0x4DB2) := by decide

theorem test_decodeConfig_bit1Ignored :
    view (exec (.decodeConfig 0x02 0x00) .reset) (fun s => s.decFields) = some (.of 0) := by decide

theorem test_decodeStatus_both :
    view (exec (.decodeStatus 0x09) .reset) (fun s => (s.statMeasuring.value, s.statImUpdate.value,
      s.statusByte.hasValue)) = some (true, true, false) := by decide

theorem test_decodeStatus_others :
    view (exec (.decodeStatus 0xF6) .reset) (fun s => (s.statMeasuring.value, s.statImUpdate.value)) =
      some (false, false) := by decide

/-! ### Sequencer (V-SEQ, V-CAL, V-RAW) -/

theorem test_reset_fromSampling :
    view (exec .reset { warm refCal 1 with phase := .sampling, fault := 0b11 }) (fun s => (s.phase, s.resetSeen,
      s.tFineValid, s.fault, s.busTrace)) = some (.uninit, true, false, 0b11, [.write 0xE0 0xB6]) := by decide

theorem test_loadCalib_reference :
    view (exec .loadCalib (answering .uninit calBytes)) (fun s => (s.cal, s.phase, s.resetSeen, s.answers)) =
      some (.of refCal, .calLoaded, false, []) := by decide

theorem test_loadCalib_signs :
    view (exec .loadCalib (answering .uninit (List.replicate 24 0xFF))) (fun s => (s.cal.value.digT1.toNat,
      s.cal.value.digP1.toNat, s.cal.value.digT2.toInt, s.cal.value.digP9.toInt)) = some (65535, 65535, -1, -1) := by
  decide

theorem test_applyConfig_order :
    view (exec (.applyConfig defaultConfig) (loaded refCal)) (fun s => (s.busTrace, s.phase, s.shadow)) =
      some ([.write 0xF5 0x30, .write 0xF4 0xB7], .configured, .of defaultConfig) := by decide

theorem test_applyConfig_inSampling :
    view (exec (.applyConfig ⟨7, 7, 3, 7, 7, 1⟩) { loaded refCal with phase := .sampling }) (fun s => (s.busTrace,
      s.phase)) = some ([.write 0xF5 0xFD, .write 0xF4 0xFF], .sampling) := by decide

theorem test_readStatus_both :
    view (exec .readStatus (answering .uninit [0x09])) (fun s => (s.statusByte, s.statMeasuring, s.statImUpdate,
      s.busTrace)) = some (.of 0x09, .of true, .of true, [.read 0xF3 1 [0x09]]) := by decide

theorem test_readRaw_example :
    view (exec .readRaw (answering .configured [0x65, 0x5A, 0xC0, 0x7E, 0xED, 0x00])) (fun s => (s.rawP, s.rawT,
      s.phase)) = some (.of 415148, .of 519888, .sampling) := by decide

theorem test_readRaw_lowNibbleDropped :
    view (exec .readRaw (answering .sampling [0x12, 0x34, 0x5F, 0xAB, 0xCD, 0xEF])) (fun s => (s.rawP, s.rawT)) =
      some (.of 0x12345, .of 0xABCDE) := by decide

theorem test_readChipId :
    view (exec .readChipId (answering .uninit [0x58])) (fun s => (s.chipId, s.fault)) = some (.of 0x58, 0) := by decide

/-! ### Compensation (V-REF, V-ZERO, V-MAX, V-T1MAX, V-P1ONE, V-MIX) -/

theorem test_compTA_reference :
    view (exec (.compTA 519888) (loaded refCal)) (fun s => (s.tFine, s.outTI32, s.tFineSrc, s.outTSrc)) =
      some (.of 128422, .of 2508, 1, 1) := by decide

theorem test_compTA_wraps :
    view (exec (.compTA 0) (loaded { refCal with digT1 := 65535 })) (fun s => (s.tFine, s.outTI32)) =
      some (.of 405338, .of 7917) := by decide

theorem test_compTB_reference :
    view (exec (.compTB 519888) (loaded refCal)) (fun s => (s.tFine, s.outTF64, s.tFineSrc)) =
      some (.of 128422, .of 0x4039151D460F8000, 2) := by decide

theorem test_compTB_negative :
    view (exec (.compTB 0) (loaded refCal)) (fun s => (s.tFine, s.outTF64)) =
      some (.of (BitVec.ofInt 32 (-721299)), .of 0xC0619C1FC6900000) := by decide +kernel

theorem test_compTC_negative :
    view (exec (.compTC 400000) (loaded refCal)) (fun s => (s.tFine, s.outTI32, s.outTSrc)) =
      some (.of (BitVec.ofInt 32 (-64736)), .of (BitVec.ofInt 32 (-1264)), 3) := by decide

theorem test_compPA_mixed :
    view (exec (.compPA 415148) (warm refCal (BitVec.ofInt 32 (-64735)))) (fun s => (s.outPU32, s.outPSrc)) =
      some (.of 24298581, 1) := by decide

theorem test_compPA_wraps :
    view (exec (.compPA 1048575) (warm refCal 960246)) (fun s => s.outPU32) = some (.of 0xFFDABADE) := by decide

theorem test_compPB_reference :
    view (exec (.compPB 415148) (warm refCal 128422)) (fun s => (s.outPF64, s.outPSrc)) =
      some (.of 0x40F892D4215C750E, 2) := by decide

theorem test_compPB_mixed :
    view (exec (.compPB 415148) (warm refCal (BitVec.ofInt 32 (-64736)))) (fun s => s.outPF64) =
      some (.of 0x40F72C44E022CF9E) := by decide

theorem test_compPC_divideFirst :
    view (exec (.compPC 0) (warm refCal (BitVec.ofInt 32 (-721301)))) (fun s => (s.outPU32, s.outPSrc)) =
      some (.of 173435, 3) := by decide

theorem test_compPC_sentinel :
    view (exec (.compPC 415148) (warm { refCal with digP1 := 1 } 128422)) (fun s => s.outPU32) = some (.of 0) := by decide

theorem test_compTPA_reference :
    view (exec (.compTPA 519888 415148) (loaded refCal)) (fun s => (s.outTI32, s.outPU32, s.outPSrc)) =
      some (.of 2508, .of 25767233, 1) := by decide

theorem test_compTPB_max :
    view (exec (.compTPB 1048575 1048575) (loaded refCal)) (fun s => (s.outTF64, s.outPF64)) =
      some (.of 0x4067719BC1941E70, .of 0xC0C2A294AF9B34D3) := by decide

theorem test_compTPC_reference :
    view (exec (.compTPC 519888 415148) (loaded refCal)) (fun s => (s.outTI32, s.outPU32)) =
      some (.of 2508, .of 100656) := by decide

/-! ### Faults and the host (V-FLT, V-PRI, V-STK) -/

theorem test_fault_priority :
    view (step (before 0x1400000000000001#64 .reset)) (fun s => (s.fault, s.faultCmd)) =
      some (0b10, .of 0x1400000000000001#64) := by decide

theorem test_fault_precond :
    view (step (before 0x1500FF655AC00000#64 (loaded refCal))) (fun s => s.fault) = some 0b10 ∧
      view (step (before 0x150000655AC00000#64 (loaded refCal))) (fun s => (s.fault, s.faultCmd)) =
        some (0b01, .of 0x150000655AC00000#64) := by decide

theorem test_fault_firstWordKept :
    view (step (before 0x0700000000000000#64 { State.reset with fault := 0b01, faultCmd := .of 7 })) (fun s =>
      (s.fault, s.faultCmd)) = some (0b11, .of 7) := by decide

theorem test_hostRead_noValue :
    hostRead .tFine .reset = .error (.holdsNoValue .tFine) ∧ hostRead .tFine (warm refCal 5) = .ok 5 ∧
      hostRead .phase (loaded refCal) = .ok 1 := by decide

theorem test_withFetchWord :
    view (step (State.reset.withFetchWord 64 0x0100000000000000)) (fun s => (s.resetSeen, s.hostQueue)) =
      some (true, []) := by decide

theorem test_powerOn :
    view (step { warm refCal 5 with fault := 0b11, hostQueue := [.powerOn, .command 0] }) (fun s => (s.fault,
      s.cal.hasValue, s.hostQueue)) = some (0, false, [.command 0]) := by decide

theorem test_wireOut :
    wireOut (.write 0xF5 0x30) = [0x75, 0x30] ∧ wireOut (.read 0x88 24 []) = [0x88] := by decide

/-! ### Witnesses: a concrete case that meets the hypotheses of each statement, at the edges of its clauses -/

theorem witness_DecodeOfEncodeIsIdentity :
    (Instr.compTPB 0xFFFFF 0xFFFFF).wellFormed ⟨false, true, false⟩ = true ∧ Instr.reset.wellFormed ⟨false, true, false⟩ = true := by
  decide

theorem witness_EncodeOfDecodeIsIdentity :
    decode ⟨false, true, false⟩ 0x190000FFFFFFFFFF#64 = .ok (.compTPB 0xFFFFF 0xFFFFF) := by decide

theorem witness_WordsSelectCommandsByMaskAndMatch :
    ((0x1A#8, 0x1A00000000000000#64, 0xFFFFFF0000000000#64) ∈ Reference.opcodeTable ∧
      0x1A0000655AC61A80#64 &&& 0xFFFFFF0000000000#64 = 0x1A00000000000000#64) ∧
    ∀ r ∈ Reference.opcodeTable, 0x1B00000000000000#64 &&& r.2.2 ≠ r.2.1 := by
  exact ⟨⟨by simp [Reference.opcodeTable], by decide⟩, by simp [Reference.opcodeTable]⟩

theorem witness_IllegalWordsMeetOneOfThreeConditions :
    (before 0x1400000000000001#64 .reset).hostQueue = [.command 0x1400000000000001#64] ∧
      Reference.IllegalWord StrategySet.all 0x1400000000000001#64 ∧
      Reference.IllegalWord StrategySet.all 0x0700000000000000#64 ∧
      Reference.IllegalWord ⟨true, false, false⟩ 0x110000000007EED0#64 ∧
      ¬ Reference.IllegalWord StrategySet.all 0x0100000000000000#64 := by
  refine ⟨rfl, .inr (.inr ⟨.aP, 0, by decide, by decide, by decide⟩), .inl (by decide),
    .inr (.inl ⟨.b, by decide, by decide⟩), ?_⟩
  rintro (h | ⟨st, h, _⟩ | ⟨f, k, h, hr, hk⟩)
  · exact absurd h (by decide)
  · exact absurd (h.symm.trans (by decide : Reference.strategyOfOpcode _ = none)) (by simp)
  · have hf : f = .n := by
      have := h.symm.trans (by decide : Reference.formatOfOpcode _ = some .n)
      simpa using this
    subst hf
    have hk56 : k < 56 := by simpa [Reference.reservedPosition] using hr
    have : ∀ j < 56, (0x0100000000000000#64).getLsbD j = false := by decide +kernel
    rw [this k hk56] at hk
    exact absurd hk (by decide)

theorem witness_StepExecutesTheDecodedCommand :
    (before 0x0100000000000000#64 .reset).hostQueue = [.command 0x0100000000000000#64] ∧
      decode (before 0x0100000000000000#64 .reset).strategies 0x0100000000000000#64 = .ok .reset := by decide

theorem witness_IllegalWordIsRecordedBeforeAnyPrecondition :
    decode (before 0x1400000000000001#64 .reset).strategies 0x1400000000000001#64 = .error .reservedBit := by decide

theorem witness_FaultingCommandChangesOnlyTheFaultRegisters :
    (decode (before 0x0200000000000000#64 .reset).strategies 0x0200000000000000#64 = .ok .loadCalib ∧
      ¬ Reference.precondition .loadCalib (before 0x0200000000000000#64 .reset)) ∧
    decode (before 0x0700000000000000#64 .reset).strategies 0x0700000000000000#64 = .error .unknownOpcode := by
  refine ⟨⟨by decide, ?_⟩, by decide⟩
  rintro ⟨_, h⟩
  exact absurd h (by decide)

/-- A state in which each command's precondition fails, for those that have one. -/
theorem witness_FailedPreconditionRecordsPrecond :
    ¬ Reference.precondition .loadCalib .reset ∧ ¬ Reference.precondition (.applyConfig defaultConfig) .reset ∧
      ¬ Reference.precondition .readRaw (loaded refCal) ∧ ¬ Reference.precondition (.compTA 0) .reset ∧
      ¬ Reference.precondition (.compPB 0) (loaded refCal) ∧ ¬ Reference.precondition (.compTPC 0 0) .reset := by
  simp [Reference.precondition, State.reset, loaded]

theorem witness_MetPreconditionRunsWithoutFault :
    Reference.precondition .loadCalib (answering .uninit []) ∧
      Reference.precondition (.applyConfig defaultConfig) (loaded refCal) ∧
      Reference.precondition .readRaw (answering .configured []) ∧ Reference.precondition .reset .reset ∧
      Reference.precondition (.compPB 0) (warm refCal 0) ∧ Reference.precondition (.compTPC 0 0) (loaded refCal) := by
  simp [Reference.precondition, answering, loaded, warm]

theorem witness_FaultBitsAreSticky :
    (∀ rest, (before 0x0100000000000000#64 { State.reset with fault := 0b11 }).hostQueue ≠ .powerOn :: rest) ∧
      (before 0x0100000000000000#64 { State.reset with fault := 0b11 }).fault ≠ 0 := by
  constructor
  · intro rest h
    simp [before] at h
  · decide

theorem witness_OneStepRecordsAtMostOneCause :
    ∀ rest, (before 0x0200000000000000#64 .reset).hostQueue ≠ .powerOn :: rest := by
  intro rest h
  simp [before] at h

theorem witness_PowerOnResetLeavesTheResetState :
    ({ warm refCal 5 with hostQueue := [.powerOn, .command 0] } : State).hostQueue = .powerOn :: [.command 0] := rfl

theorem witness_BlockWaitsForTheNextWord : State.reset.hostQueue = [] := rfl

/-- A state far from reset: sampling, both stages run, a fault recorded. -/
def busy : State :=
  { warm refCal 128422 with
    phase := .sampling
    shadow := .of defaultConfig
    rawP := .of 415148
    rawT := .of 519888
    encConfig := .of 0x30
    encCtrlMeas := .of 0xB7
    outTI32 := .of 2508
    outTSrc := 1
    outPU32 := .of 25767233
    outPSrc := 1
    fault := 0b01
    faultCmd := .of 0x0200000000000000
    busTrace := [.write 0xE0 0xB6, .read 0x88 24 calBytes, .write 0xF5 0x30, .write 0xF4 0xB7,
      .read 0xF7 6 [0x65, 0x5A, 0xC0, 0x7E, 0xED, 0x00]]
    hostQueue := [.command 0x0100000000000000] }

theorem witness_ResetStateMeetsTheInvariants_busy : RegistersConsistent busy := by
  constructor <;> decide

theorem witness_EveryStepKeepsTheRegistersConsistent : RegistersConsistent State.reset := by
  constructor <;> decide

theorem witness_EveryStepKeepsTheTraceConsistent : TraceConsistent busy ∧ TraceConsistent State.reset := by
  constructor <;> constructor <;> decide

/-- The paired-writes and load-order predicates refuse the traces that they are meant to refuse. -/
theorem test_tracePredicates_refuse :
    configWritesPaired [.write 0xF4 0, .write 0xF5 0] = false ∧ configWritesPaired [.write 0xF5 0] = false ∧
      configWritesPaired [.write 0xF5 0, .read 0xF3 1 [0], .write 0xF4 0] = false ∧
      pendingReset false [.read 0x88 24 []] = none ∧
      pendingReset false [.write 0xE0 0xB6, .read 0x88 24 [], .read 0x88 24 []] = none ∧
      allowedEvent (.write 0xE0 0xB5) = false ∧ allowedEvent (.read 0xF6 1 [0]) = false := by decide

theorem witness_RegistersWithoutValueAreNeverRead :
    RegistersConsistent State.reset ∧
      SameBlock State.reset { State.reset with tFine := .unwritten 5, faultCmd := .unwritten 9 } ∧
      State.reset ≠ { State.reset with tFine := .unwritten 5, faultCmd := .unwritten 9 } := by
  refine ⟨by constructor <;> decide, ?_, by decide⟩
  constructor <;> first | rfl | exact ⟨rfl, fun _ => rfl⟩ | exact ⟨rfl, fun h => absurd h (by decide)⟩

theorem witness_PhaseMovesAsTheTableSays :
    Reference.precondition (.applyConfig defaultConfig) (loaded refCal) ∧
      Reference.phaseAfter (.applyConfig defaultConfig) (loaded refCal).phase = .configured ∧
      Reference.phaseAfter (.applyConfig defaultConfig) .sampling = .sampling ∧
      Reference.phaseAfter .readRaw .configured = .sampling ∧ ¬ Reference.precondition .loadCalib .reset := by
  simp [Reference.precondition, Reference.phaseAfter, loaded, State.reset]

theorem witness_CommandsSendTheWireBytesOfTheTable :
    Reference.precondition (.applyConfig defaultConfig) (loaded refCal) ∧
      Reference.wireBytes (.applyConfig defaultConfig) = [0x75, 0x30, 0x74, 0xB7] := by
  refine ⟨by simp [Reference.precondition, loaded], by decide⟩

theorem witness_OnlyApplyWritesConfigAndInOrder :
    (loaded refCal).phase ≠ .uninit ∧ ∀ f, Instr.reset ≠ .applyConfig f := by
  exact ⟨by decide, fun _ h => by cases h⟩

theorem witness_LoadCalibDecodesTheTwelveWords :
    (answering .uninit calBytes).phase = .uninit ∧ (answering .uninit calBytes).resetSeen = true ∧
      Reference.calibration (answerByte (answering .uninit calBytes)) = refCal := by decide

theorem witness_SecondLoadFaultsUntilTheNextReset :
    (answering .uninit []).phase = .uninit ∧ (answering .uninit []).resetSeen = true ∧
      Instr.loadCalib ≠ .reset ∧ State.reset.resetSeen = false ∧
      ∀ w rest, (before 0x0200000000000000#64 .reset).hostQueue = .command w :: rest →
        decode (before 0x0200000000000000#64 .reset).strategies w ≠ .ok .reset := by
  refine ⟨by decide, by decide, by decide, by decide, ?_⟩
  intro w rest h
  simp only [before, List.cons.injEq, HostMove.command.injEq] at h
  rw [← h.1]
  decide

theorem witness_PressureWaitsForATemperature :
    (answering .uninit []).phase = .uninit ∧ (answering .uninit []).resetSeen = true ∧
      (loaded refCal).phase ≠ .uninit ∧ (loaded refCal).tFineValid = false ∧
      Reference.isTemperatureCommand .loadCalib = false ∧ Reference.isTemperatureCommand (.compTPB 0 0) = true ∧
      ∀ w rest i, (before 0x140000655AC00000#64 (loaded refCal)).hostQueue = .command w :: rest →
        decode (before 0x140000655AC00000#64 (loaded refCal)).strategies w = .ok i →
          Reference.isTemperatureCommand i = false := by
  refine ⟨by decide, by decide, by decide, by decide, by decide, by decide, ?_⟩
  intro w rest i h hd
  simp only [before, List.cons.injEq, HostMove.command.injEq] at h
  rw [← h.1] at hd
  have hp : decode (before 0x140000655AC00000#64 (loaded refCal)).strategies 0x140000655AC00000#64 =
      .ok (.compPA 415148) := by decide
  obtain rfl : Instr.compPA 415148 = i := Except.ok.inj (hp.symm.trans hd)
  rfl

/-- A register of each kind, held and not held. -/
theorem witness_HostReadAnswersTheNamedRegister :
    Reference.heldNumber .phase busy = some 3 ∧ Reference.heldNumber .digT3 busy = some 64536 ∧
      Reference.heldNumber .rawT busy = some 519888 ∧ hostRead .rawT busy = .ok 519888 ∧
      hostRead .rawP busy = .ok 415148 ∧ hostRead .digT3 busy = .ok 64536 ∧
      Reference.heldNumber .chipId busy = none ∧ hostRead .chipId busy = .error (.holdsNoValue .chipId) := by decide

theorem witness_ApplyConfigUpdatesShadowAndSensor :
    (loaded refCal).phase ≠ .uninit ∧ (loaded refCal).phase = .calLoaded ∧ busy.phase ≠ .uninit := by decide

theorem witness_ReapplyingAConfigurationOnlyRepeatsTheWrites :
    busy.phase = .configured ∨ busy.phase = .sampling := by decide

theorem witness_ReadRawAssemblesBothSamples :
    ((answering .configured []).phase = .configured ∨ (answering .configured []).phase = .sampling) ∧
      Reference.sample 0xFF 0xFF 0xFF = 0xFFFFF ∧ Reference.sample 0x12 0x34 0x5F = 0x12345 := by decide

theorem witness_FailedReadsLookLikeData :
    (∀ k < 24, answerByte (answering .uninit (List.replicate 24 0xFF)) k = 0xFF#8) ∧
      (∀ k < 24, answerByte (answering .sampling (List.replicate 24 0xFF)) k = 0xFF#8) ∧
      (answering .uninit (List.replicate 24 0xFF)).phase = .uninit ∧
      (answering .uninit (List.replicate 24 0xFF)).resetSeen = true ∧
      (answering .sampling (List.replicate 24 0xFF)).phase = .sampling := by decide

/-- The hypotheses of the statements on COMP_T and COMP_TP. -/
theorem witness_IntegerTemperatureFollowsTheFormula :
    (loaded refCal).phase ≠ .uninit ∧
      Reference.tempInt 519888 27504 26435 (-1000) = (128422, 2508) ∧
      Reference.tempInt 0 65535 26435 (-1000) = (405338, 7917) := by decide

theorem witness_CombinedIntegerCompensationChainsTheFormulas : (loaded refCal).phase ≠ .uninit := by decide

theorem witness_BinaryTemperatureFollowsTheFormula : (loaded refCal).phase ≠ .uninit := by decide

theorem witness_CombinedBinaryCompensationIsTheTwoStages : (loaded refCal).phase ≠ .uninit := by decide

/-- The hypotheses of the statements on COMP_P, and the reference formulas on the spec's vectors. -/
theorem witness_StrategyAPressureFollowsTheFormula :
    (warm refCal 128422).phase ≠ .uninit ∧ (warm refCal 128422).tFineValid = true ∧
      Reference.presA refCal 415148 128422 = 25767233 ∧ Reference.presA refCal 1048575 960246 = 4292524766 := by decide

theorem witness_StrategyCPressureFollowsTheFormula :
    (warm refCal 128422).phase ≠ .uninit ∧ (warm refCal 128422).tFineValid = true ∧
      Reference.presC refCal 415148 128422 = 100656 ∧ Reference.presC refCal 0 (-721301) = 173435 := by decide

theorem witness_BinaryPressureFollowsTheFormula :
    (warm refCal 128422).phase ≠ .uninit ∧ (warm refCal 128422).tFineValid = true := by decide

theorem witness_ZeroDenominatorGivesExactlyZero :
    (warm { refCal with digP1 := 0 } 128422).phase ≠ .uninit ∧
      (warm { refCal with digP1 := 0 } 128422).tFineValid = true ∧
      Reference.presADen { refCal with digP1 := 0 } 128422 = 0 ∧
      Reference.presCDen { refCal with digP1 := 1 } 128422 = 0 ∧
      Reference.f64Value (presFDenominator { refCal with digP1 := 0 } 128422) = some 0 := by
  refine ⟨by decide, by decide, by decide, by decide, ?_⟩
  have h : presFDenominator { refCal with digP1 := 0 } 128422 = f64Zero false := by decide +kernel
  rw [h]
  exact f64Value_zero false

theorem witness_ZeroDigP1GivesZeroPressureInEveryStrategy :
    (loaded { refCal with digP1 := 0 }).phase ≠ .uninit ∧ (loaded { refCal with digP1 := 0 }).cal.value.digP1 = 0 := by
  decide

theorem witness_PressureIgnoresWhichStrategyMadeTFine :
    (warm refCal 1).phase ≠ .uninit ∧ (warm refCal 1).tFineValid = true ∧ (warm refCal 1).tFineSrc ≠ 2 := by decide

/-- The value of a bit pattern that unpacks to a finite number: 1, -1/2 and the least subnormal. -/
theorem witness_BinarySumsAreCorrectlyRounded :
    Reference.f64Value 0x3FF0000000000000#64 = some 1 ∧ Reference.f64Value 0xBFE0000000000000#64 = some (-1 / 2) := by
  rw [f64Value_of_unpack (x := 0x3FF0000000000000#64) (neg := false) (m := 2 ^ 52) (e := -52) (by decide),
    f64Value_of_unpack (x := 0xBFE0000000000000#64) (neg := true) (m := 2 ^ 52) (e := -53) (by decide)]
  norm_num [signFactor]

/-- Zeros of both signs, and a nonzero divisor. -/
theorem witness_BinaryZerosAndSignsFollowIeee :
    Reference.f64Value 0x8000000000000000#64 = some 0 ∧ Reference.f64Value 0#64 = some 0 ∧
      Reference.f64Value 0xBFE0000000000000#64 = some (-1 / 2) ∧ (-1 / 2 : ℚ) ≠ 0 ∧
      f64Add 0x8000000000000000#64 0x8000000000000000#64 = 0x8000000000000000#64 ∧
      f64Sub 0xBFE0000000000000#64 0xBFE0000000000000#64 = 0#64 :=
  ⟨f64Value_zero true, f64Value_zero false, witness_BinarySumsAreCorrectlyRounded.2, by norm_num, by decide, by decide⟩

theorem witness_BinaryProductsAndQuotientsAreCorrectlyRounded :
    Reference.f64Value 0x3FF0000000000000#64 = some 1 ∧ (1 : ℚ) ≠ 0 :=
  ⟨witness_BinarySumsAreCorrectlyRounded.1, one_ne_zero⟩

theorem witness_IntegerConversionsAreExact :
    |(2 ^ 53 - 1 : ℤ)| < 2 ^ 53 ∧ Reference.f64Value 0xC1E00000001FFFFF#64 = some (-2147483649 + 1 / 2097152) ∧
      (-2147483649 : ℚ) < -2147483649 + 1 / 2097152 := by
  refine ⟨by norm_num, ?_, by norm_num⟩
  rw [f64Value_of_unpack (x := 0xC1E00000001FFFFF#64) (neg := true) (m := 2 ^ 52 + 2097151) (e := -21) (by decide)]
  norm_num [signFactor]

theorem witness_AssemblerAcceptsExactlyWhatFits :
    assemble (.apply6 7 7 3 7 7 1) = some [.applyConfig ⟨7, 7, 3, 7, 7, 1⟩] ∧
      assemble (.apply6 8 7 3 7 7 1) = none ∧ assemble (.apply6 7 7 4 7 7 1) = none ∧
      assemble (.apply6 7 7 3 7 7 2) = none ∧ assemble (.deccfg 255 255) = some [.decodeConfig 255 255] ∧
      assemble (.deccfg 255 256) = none ∧ assemble (.decstat 256) = none ∧
      assemble (.compt .b 0xFFFFF) = some [.compTB 0xFFFFF] ∧ assemble (.compt .b 0x100000) = none ∧
      assemble (.comptp .c 0xFFFFF 1) = some [.compTPC 0xFFFFF 1] ∧
      assemble (.comptp .c 1 0x100000) = none := by decide

end Sys2Proof.Tests
end

/-! ## Proofs: the scope of the block (00_scope.md). The state's inputs along a step, and the integer formulas
(R176–R178) against plain integers reduced to the width of each operation (R9). -/

namespace Sys2Proof.Machine

/-! ### One step on a command word, and what it takes of the inputs (R63, R74, R81) -/

/-- With a command word as the next move, a step runs that word without the move (R74). -/
theorem step_of_command {s : State} {w : CmdWord} {rest : List HostMove} (hq : s.hostQueue = .command w :: rest) :
    step s = runWord w (setQueue rest s) := by
  simp [step, nextMove, hq]

/-- A word that decodes to a command runs as that command (R100). -/
theorem runWord_of_decode {s : State} {w : CmdWord} {i : Instr} (hd : decode s.strategies w = .ok i) :
    runWord w s = exec i s := by
  simp [runWord, hd]

/-- How many bytes a command clocks in where its precondition holds (R142, R146, R147, R149). -/
def bytesRead : Instr → ℕ
  | .loadCalib => 24
  | .readRaw => 6
  | .readStatus | .readChipId => 1
  | .reset | .applyConfig _ | .encodeConfig _ | .decodeConfig _ _ | .decodeStatus _ => 0
  | .compTA _ | .compTB _ | .compTC _ | .compPA _ | .compPB _ | .compPC _ => 0
  | .compTPA _ _ | .compTPB _ _ | .compTPC _ _ => 0

/-- The calibration block is the longest read (R142). -/
theorem bytesRead_le (i : Instr) : bytesRead i ≤ 24 := by
  cases i <;> simp [bytesRead]

/-- A command that runs takes the bytes it reads off the answers. -/
theorem execEffect_answers (i : Instr) (s : State) : (execEffect i s).answers = s.answers.drop (bytesRead i) := by
  cases i <;> rfl

/-- A command that runs counts the bytes it reads. -/
theorem execEffect_draws (i : Instr) (s : State) : (execEffect i s).draws = s.draws + bytesRead i := by
  cases i <;> rfl

/-- From `s` to `t` the build and the host's moves stay, and exactly the first `n` answer bytes are used up. -/
structure TakesAnswers (n : ℕ) (s t : State) : Prop where
  strategies : t.strategies = s.strategies
  hostQueue : t.hostQueue = s.hostQueue
  answers : t.answers = s.answers.drop n
  draws : t.draws = s.draws + n

/-- A fault takes no answer (R225). -/
theorem takesAnswers_raiseFault (c : FaultCause) (w : CmdWord) (s : State) : TakesAnswers 0 s (raiseFault c w s) :=
  ⟨rfl, rfl, rfl, rfl⟩

/-- The power-on reset leaves the inputs still to come (log entry 10). -/
theorem takesAnswers_powerOnReset (s : State) : TakesAnswers 0 s (powerOnReset s) := ⟨rfl, rfl, rfl, rfl⟩

/-- A command takes at most 24 answers, whether it runs or faults. -/
theorem exec_takesAnswers {i : Instr} {s t : State} (h : exec i s = .next t) : ∃ n ≤ 24, TakesAnswers n s t := by
  obtain ⟨-, rfl⟩ | ⟨-, rfl⟩ := exec_cases h
  · exact ⟨bytesRead i, bytesRead_le i, execEffect_strategies i s, execEffect_hostQueue i s,
      execEffect_answers i s, execEffect_draws i s⟩
  · exact ⟨0, by omega, takesAnswers_raiseFault _ _ s⟩

/-- A step takes its move off the queue, then at most 24 answers. -/
theorem step_takesAnswers {s t : State} (h : step s = .next t) :
    ∃ n ≤ 24, TakesAnswers n (setQueue s.hostQueue.tail s) t := by
  obtain ⟨hq, rfl⟩ | ⟨rest, hq, rfl⟩ | ⟨w, rest, i, hq, -, hexec⟩ | ⟨w, rest, e, hq, -, rfl⟩ := step_cases h
  · exact ⟨0, by omega, rfl, by simp [hq], rfl, rfl⟩
  · exact ⟨0, by omega, by simpa [hq] using takesAnswers_powerOnReset (setQueue rest s)⟩
  · simpa [hq] using exec_takesAnswers hexec
  · exact ⟨0, by omega, by simpa [hq] using takesAnswers_raiseFault .illegal w (setQueue rest s)⟩

/-- Settles O19: every step answers a next state, and what a step can do (`step_cases`) says what it takes. -/
theorem stepTakesItsInputsInOrder : Obligations.StepTakesItsInputsInOrder := by
  intro s
  obtain ⟨t, ht⟩ := step_eq_next s
  obtain ⟨n, hn, hbuild, hqueue, hanswers, hdraws⟩ := step_takesAnswers ht
  exact ⟨t, n, ht, hbuild, hqueue, hn, hanswers, hdraws⟩

/-- Settles O6, by the step on a command word and the run of a word that decodes. -/
theorem stepExecutesTheDecodedCommand : Obligations.StepExecutesTheDecodedCommand := by
  intro s w rest i hq hd
  rw [step_of_command hq]
  exact runWord_of_decode (s := setQueue rest s) hd

/-! ### Bit-vector operations as integer operations reduced to their width (R9, R171–R174) -/

section Arithmetic

open Sys2Proof.Reference

/-- R9's `iN(v)` is the library's balanced residue. -/
theorem sInt_eq_bmod {w : ℕ} (hw : 0 < w) (v : ℤ) : sInt w v = v.bmod (2 ^ w) := by
  obtain ⟨n, rfl⟩ : ∃ n, w = n + 1 := ⟨w - 1, by omega⟩
  have hpow : (2 : ℤ) ^ (n + 1) = 2 * 2 ^ n := by ring
  have hpos : (0 : ℤ) < 2 ^ n := by positivity
  have hlo := Int.emod_nonneg v (show (2 * 2 ^ n : ℤ) ≠ 0 by omega)
  have hhi := Int.emod_lt_of_pos v (show (0 : ℤ) < 2 * 2 ^ n by omega)
  simp only [sInt, Int.bmod_def, Nat.add_sub_cancel]
  push_cast
  rw [hpow, ← Int.emod_add_emod]
  generalize (2 : ℤ) ^ n = m at *
  generalize v % (2 * m) = r at *
  split_ifs with h
  · rw [Int.emod_eq_of_lt] <;> omega
  · rw [← Int.sub_emod_right, Int.emod_eq_of_lt] <;> omega

/-- R9's right shift is the library's floor division. -/
theorem shr_eq_ediv (x : ℤ) (k : ℕ) : shr x k = x / 2 ^ k :=
  Int.fdiv_eq_ediv_of_nonneg x (by positivity)

variable {w : ℕ}

theorem toInt_add_eq_sInt (hw : 0 < w) (x y : BitVec w) : (x + y).toInt = sInt w (x.toInt + y.toInt) := by
  rw [BitVec.toInt_add, sInt_eq_bmod hw]

theorem toInt_sub_eq_sInt (hw : 0 < w) (x y : BitVec w) : (x - y).toInt = sInt w (x.toInt - y.toInt) := by
  rw [BitVec.toInt_sub, sInt_eq_bmod hw]

theorem toInt_mul_eq_sInt (hw : 0 < w) (x y : BitVec w) : (x * y).toInt = sInt w (x.toInt * y.toInt) := by
  rw [BitVec.toInt_mul, sInt_eq_bmod hw]

theorem toInt_sdiv_eq_sInt (hw : 0 < w) (x y : BitVec w) :
    (x.sdiv y).toInt = sInt w (Int.tdiv x.toInt y.toInt) := by
  rw [BitVec.toInt_sdiv, sInt_eq_bmod hw]

theorem toInt_shiftLeft_eq_sInt (hw : 0 < w) (x : BitVec w) (k : ℕ) :
    (x <<< k).toInt = sInt w (x.toInt * 2 ^ k) := by
  rw [sInt_eq_bmod hw, BitVec.toInt_shiftLeft, Nat.shiftLeft_eq, BitVec.toInt_eq_toNat_bmod, Int.bmod_mul_bmod]
  push_cast
  rfl

theorem toInt_sshiftRight_eq_shr (x : BitVec w) (k : ℕ) : (x.sshiftRight k).toInt = shr x.toInt k := by
  rw [BitVec.toInt_sshiftRight, Int.shiftRight_eq_div_pow, shr_eq_ediv]
  push_cast
  rfl

/-- `uN(v)` of an `iN` keeps the bits, read as unsigned (R174). -/
theorem toNat_eq_uInt_toInt (x : BitVec w) : (x.toNat : ℤ) = uInt w x.toInt := by
  have hlt : (x.toNat : ℤ) < 2 ^ w := by exact_mod_cast x.isLt
  have hmod := @Int.bmod_emod x.toNat (2 ^ w)
  push_cast at hmod
  rw [uInt, BitVec.toInt_eq_toNat_bmod, hmod, Int.emod_eq_of_lt (by positivity) hlt]

/-- `iN(v)` of a `uN` keeps the bits, read as two's complement (R174). -/
theorem toInt_eq_sInt_toNat (hw : 0 < w) (x : BitVec w) : x.toInt = sInt w x.toNat := by
  rw [sInt_eq_bmod hw, BitVec.toInt_eq_toNat_bmod]

theorem toNat_sub_eq_uInt (x y : BitVec w) : ((x - y).toNat : ℤ) = uInt w (x.toNat - y.toNat) := by
  rw [BitVec.toNat_sub', uInt]
  push_cast [y.isLt.le]
  rw [← add_sub_assoc, add_sub_right_comm, Int.add_emod_right]

theorem toNat_mul_eq_uInt (x y : BitVec w) : ((x * y).toNat : ℤ) = uInt w (x.toNat * y.toNat) := by
  rw [BitVec.toNat_mul, uInt]
  push_cast
  rfl

theorem toNat_shiftLeft_eq_uInt (x : BitVec w) (k : ℕ) : ((x <<< k).toNat : ℤ) = uInt w (x.toNat * 2 ^ k) := by
  rw [BitVec.toNat_shiftLeft, Nat.shiftLeft_eq, uInt]
  push_cast
  rfl

theorem toNat_ushiftRight_eq_shr (x : BitVec w) (k : ℕ) : ((x >>> k).toNat : ℤ) = shr x.toNat k := by
  rw [BitVec.toNat_ushiftRight, Nat.shiftRight_eq_div_pow, shr_eq_ediv]
  push_cast
  rfl

theorem toNat_udiv_eq_fdiv (x y : BitVec w) : ((x / y).toNat : ℤ) = Int.fdiv x.toNat y.toNat := by
  rw [BitVec.toNat_udiv, Int.fdiv_eq_ediv_of_nonneg _ (by positivity)]
  push_cast
  rfl

/-- A logical right shift, read as two's complement. -/
theorem toInt_ushiftRight_eq_sInt (hw : 0 < w) (x : BitVec w) (k : ℕ) :
    (x >>> k).toInt = sInt w (shr x.toNat k) := by
  rw [toInt_eq_sInt_toNat hw, toNat_ushiftRight_eq_shr]

/-- `uN(v)` of a wider or equal signed number keeps its low bits (R174). -/
theorem ofInt_uInt_toInt {v : ℕ} (h : w ≤ v) (x : BitVec v) : BitVec.ofInt w (uInt w x.toInt) = x.setWidth w := by
  rw [← BitVec.toInt_inj, BitVec.toInt_ofInt, uInt, BitVec.toInt_setWidth, BitVec.toInt_eq_toNat_bmod]
  have hmod := @Int.emod_bmod ((x.toNat : ℤ).bmod (2 ^ v)) (2 ^ w)
  push_cast at hmod
  rw [hmod, Int.bmod_bmod_of_dvd (pow_dvd_pow 2 h)]

/-! ### The operands of a formula keep their values (R24, R174) -/

@[simp] theorem adc32_toInt (x : BitVec 20) : (adc32 x).toInt = x.toNat := by
  rw [adc32, BitVec.toInt_setWidth, Int.bmod_eq_of_le] <;> omega

@[simp] theorem unsigned32_toInt (x : BitVec 16) : (unsigned32 x).toInt = x.toNat := by
  rw [unsigned32, BitVec.toInt_setWidth, Int.bmod_eq_of_le] <;> omega

@[simp] theorem unsigned64_toInt (x : BitVec 16) : (unsigned64 x).toInt = x.toNat := by
  rw [unsigned64, BitVec.toInt_setWidth, Int.bmod_eq_of_le] <;> omega

@[simp] theorem signed32_toInt (x : BitVec 16) : (signed32 x).toInt = x.toInt :=
  BitVec.toInt_signExtend_of_le (by decide)

@[simp] theorem signed64_toInt (x : BitVec 16) : (signed64 x).toInt = x.toInt :=
  BitVec.toInt_signExtend_of_le (by decide)

@[simp] theorem widen64_toInt (x : BitVec 32) : (widen64 x).toInt = x.toInt :=
  BitVec.toInt_signExtend_of_le (by decide)

/-- A word of the store enters the 32-bit formulas with its value. -/
theorem calib32_toInt (c : Calib) (word : CalibWord) : (calib32 c word).toInt = wordValue c word := by
  cases word <;> simp [wordValue]

/-- A word of the store enters the 64-bit formula with its value. -/
theorem calib64_toInt (c : Calib) (word : CalibWord) : (calib64 c word).toInt = wordValue c word := by
  cases word <;> simp [wordValue]

end Arithmetic

/-! ### The temperature of strategies A and C (R176) -/

theorem tempInt_fst_toInt (c : Calib) (adcT : BitVec 20) :
    (tempInt c adcT).1.toInt = (Reference.tempInt adcT.toNat c.digT1.toNat c.digT2.toInt c.digT3.toInt).1 := by
  simp only [tempInt, Reference.tempInt, toInt_add_eq_sInt, toInt_sub_eq_sInt, toInt_mul_eq_sInt,
    toInt_shiftLeft_eq_sInt, toInt_sshiftRight_eq_shr, adc32_toInt, calib32_toInt, Reference.wordValue,
    Nat.ofNat_pos]

/-- T is a function of `t_fine` alone (R176). -/
theorem tempInt_snd (c : Calib) (adcT : BitVec 20) :
    (tempInt c adcT).2 = ((tempInt c adcT).1 * 5 + 128).sshiftRight 8 := rfl

theorem tempInt_snd_toInt (c : Calib) (adcT : BitVec 20) :
    (tempInt c adcT).2.toInt = (Reference.tempInt adcT.toNat c.digT1.toNat c.digT2.toInt c.digT3.toInt).2 := by
  rw [tempInt_snd]
  simp only [toInt_add_eq_sInt, toInt_mul_eq_sInt, toInt_sshiftRight_eq_shr, tempInt_fst_toInt, Nat.ofNat_pos,
    BitVec.ofNat_eq_ofNat, BitVec.reduceToInt]
  rfl

/-- The model's `temp_int` is the formula in plain integers. -/
theorem tempInt_eq_reference (c : Calib) (adcT : BitVec 20) :
    tempInt c adcT = (Reference.tFineInt c adcT, Reference.tempIntBits c adcT) := by
  rw [Reference.tFineInt, Reference.tempIntBits, ← tempInt_fst_toInt, ← tempInt_snd_toInt, BitVec.ofInt_toInt,
    BitVec.ofInt_toInt]

/-- The temperature stage of strategies A and C by the formula. -/
theorem writeTempInt_eq_reference (st : Strategy) (adcT : BitVec 20) (s : State) :
    writeTempInt st adcT s = { s with
      tFine := ⟨Reference.tFineInt s.cal.value adcT, true⟩
      tFineValid := true
      tFineSrc := strategyTag st
      outTI32 := ⟨Reference.tempIntBits s.cal.value adcT, true⟩
      outTSrc := strategyTag st } := by
  rw [writeTempInt, tempInt_eq_reference]
  rfl

/-- The precondition of COMP_T (R221). -/
theorem calReady_iff (s : State) : calReady s = true ↔ s.phase ≠ .uninit := atLeast_calLoaded_iff s.phase

/-- Settles O40: both commands are ready and have the same temperature stage, which is the formula. -/
theorem integerTemperatureFollowsTheFormula : Obligations.IntegerTemperatureFollowsTheFormula := by
  intro adcT s hphase
  have hready : calReady s = true := (calReady_iff s).mpr hphase
  constructor
  · rw [exec_of_ready (i := .compTA adcT) hready]
    exact congrArg _ (writeTempInt_eq_reference .a adcT s)
  · rw [exec_of_ready (i := .compTC adcT) hready]
    exact congrArg _ (writeTempInt_eq_reference .c adcT s)

/-! ### The pressure of strategy A (R177) -/

theorem presADenominator_toInt (c : Calib) (tFine : BitVec 32) :
    (presADenominator c tFine).toInt = Reference.presADen c tFine.toInt := by
  have h47 : (1#64 <<< 47).toInt = 2 ^ 47 := by decide
  simp only [presADenominator, Reference.presADen, h47, toInt_add_eq_sInt, toInt_sub_eq_sInt, toInt_mul_eq_sInt,
    toInt_shiftLeft_eq_sInt, toInt_sshiftRight_eq_shr, widen64_toInt, calib64_toInt, Reference.wordValue,
    Nat.ofNat_pos, BitVec.ofNat_eq_ofNat, BitVec.reduceToInt]

theorem presADenominator_eq_zero_iff (c : Calib) (tFine : BitVec 32) :
    presADenominator c tFine = 0 ↔ Reference.presADen c tFine.toInt = 0 := by
  rw [← presADenominator_toInt, ← BitVec.toInt_inj]
  rfl

/-- The model's `pres_a` is the formula in plain integers, the zero denominator included (R191). -/
theorem presA_eq_reference (c : Calib) (adcP : BitVec 20) (tFine : BitVec 32) :
    presA c adcP tFine = Reference.presABits c adcP tFine := by
  simp only [presA, Reference.presABits, Reference.presA, presADenominator_eq_zero_iff]
  split
  · rfl
  · rw [← ofInt_uInt_toInt (by decide)]
    simp only [presADenominator_toInt, toInt_add_eq_sInt, toInt_sub_eq_sInt, toInt_mul_eq_sInt, toInt_sdiv_eq_sInt,
      toInt_shiftLeft_eq_sInt, toInt_sshiftRight_eq_shr, adc32_toInt, widen64_toInt, calib64_toInt,
      Reference.wordValue, Nat.ofNat_pos, BitVec.ofNat_eq_ofNat, BitVec.reduceToInt]

/-- The precondition of COMP_P (R221), from its two parts. -/
theorem pressureReady_of {s : State} (hphase : s.phase ≠ .uninit) (hvalid : s.tFineValid = true) :
    pressureReady s = true :=
  (pressureReady_iff s).mpr ⟨(calReady_iff s).mpr hphase, hvalid⟩

/-- Settles O41: the command is ready and its pressure stage is the formula. -/
theorem strategyAPressureFollowsTheFormula : Obligations.StrategyAPressureFollowsTheFormula := by
  intro adcP s hphase hvalid
  rw [exec_of_ready (i := .compPA adcP) (pressureReady_of hphase hvalid), ← presA_eq_reference]
  rfl

/-! ### The pressure of strategy C (R178), in the stages of the rule: denominator, numerator, quotient, correction -/

/-- The branch of `pres_c` on bit patterns: the numerator `p` over the denominator `v1`, doubled. -/
def presCQuotient (p v1 : BitVec 32) : BitVec 32 :=
  if p.ult 0x80000000#32 then (p <<< 1) / v1 else (p / v1) * 2

/-- The last three lines of `pres_c` on bit patterns, from the quotient `p`. -/
def presCCorrected (c : Calib) (p : BitVec 32) : BitVec 32 :=
  let w1 := (calib32 c .p9 * ((p >>> 3) * (p >>> 3)) >>> 13).sshiftRight 12
  let w2 := ((p >>> 2) * calib32 c .p8).sshiftRight 13
  p + (w1 + w2 + calib32 c .p7).sshiftRight 4

theorem presC_eq_stages (c : Calib) (adcP : BitVec 20) (tFine : BitVec 32) :
    presC c adcP tFine =
      if presCDenominator c tFine = 0 then 0
      else presCCorrected c (presCQuotient (presCNumerator c adcP tFine) (presCDenominator c tFine)) := rfl

namespace Plain

open Sys2Proof.Reference

/-- The first `p` of `pres_c` in the integers of rule R9. -/
def presCNumerator (c : Calib) (adcP tFine : ℤ) : ℤ :=
  let v1 := sInt 32 (shr tFine 1 - 64000)
  let q := sInt 32 (shr v1 2 * shr v1 2)
  let v2 := sInt 32 (shr q 11 * c.digP6.toInt)
  let v2 := sInt 32 (v2 + sInt 32 (sInt 32 (v1 * c.digP5.toInt) * 2 ^ 1))
  let v2 := sInt 32 (shr v2 2 + sInt 32 (c.digP4.toInt * 2 ^ 16))
  uInt 32 (uInt 32 (uInt 32 (sInt 32 (1048576 - adcP)) - uInt 32 (shr v2 12)) * 3125)

/-- The branch of `pres_c` in the integers of rule R9. -/
def presCQuotient (p v1 : ℤ) : ℤ :=
  if p < 2147483648 then Int.fdiv (uInt 32 (p * 2 ^ 1)) (uInt 32 v1) else uInt 32 (Int.fdiv p (uInt 32 v1) * 2)

/-- The `i32` sum that ends `pres_c`, in the integers of rule R9. -/
def presCCorrected (c : Calib) (p : ℤ) : ℤ :=
  let w1 := shr (sInt 32 (c.digP9.toInt * sInt 32 (shr (uInt 32 (shr p 3 * shr p 3)) 13))) 12
  let w2 := shr (sInt 32 (sInt 32 (shr p 2) * c.digP8.toInt)) 13
  sInt 32 (sInt 32 p + shr (sInt 32 (sInt 32 (w1 + w2) + c.digP7.toInt)) 4)

theorem referencePresC_eq_stages (c : Calib) (adcP tFine : ℤ) :
    Reference.presC c adcP tFine =
      if presCDen c tFine = 0 then 0
      else uInt 32 (presCCorrected c (presCQuotient (presCNumerator c adcP tFine) (presCDen c tFine))) := rfl

end Plain

theorem presCDenominator_toInt (c : Calib) (tFine : BitVec 32) :
    (presCDenominator c tFine).toInt = Reference.presCDen c tFine.toInt := by
  simp only [presCDenominator, Reference.presCDen, toInt_add_eq_sInt, toInt_sub_eq_sInt, toInt_mul_eq_sInt,
    toInt_sshiftRight_eq_shr, calib32_toInt, Reference.wordValue, Nat.ofNat_pos, BitVec.ofNat_eq_ofNat,
    BitVec.reduceToInt]

theorem presCDenominator_eq_zero_iff (c : Calib) (tFine : BitVec 32) :
    presCDenominator c tFine = 0 ↔ Reference.presCDen c tFine.toInt = 0 := by
  rw [← presCDenominator_toInt, ← BitVec.toInt_inj]
  rfl

theorem presCNumerator_toNat (c : Calib) (adcP : BitVec 20) (tFine : BitVec 32) :
    ((presCNumerator c adcP tFine).toNat : ℤ) = Plain.presCNumerator c adcP.toNat tFine.toInt := by
  rw [presCNumerator, toNat_mul_eq_uInt, toNat_sub_eq_uInt, toNat_eq_uInt_toInt (_ - adc32 _),
    toNat_eq_uInt_toInt (BitVec.sshiftRight _ _)]
  simp only [Plain.presCNumerator, toInt_add_eq_sInt, toInt_sub_eq_sInt, toInt_mul_eq_sInt,
    toInt_shiftLeft_eq_sInt, toInt_sshiftRight_eq_shr, adc32_toInt, calib32_toInt, Reference.wordValue,
    Nat.ofNat_pos, BitVec.ofNat_eq_ofNat, BitVec.reduceToInt]
  rfl

/-- The unsigned comparison and both divisions of the branch agree. -/
theorem presCQuotient_toNat (p v1 : BitVec 32) :
    ((presCQuotient p v1).toNat : ℤ) = Plain.presCQuotient p.toNat v1.toInt := by
  have hlt : p.ult 0x80000000#32 = true ↔ (p.toNat : ℤ) < 2147483648 := by
    rw [BitVec.ult_iff_lt, BitVec.lt_def]
    exact_mod_cast Iff.rfl
  simp only [presCQuotient, Plain.presCQuotient, hlt, ← toNat_eq_uInt_toInt]
  split
  · rw [toNat_udiv_eq_fdiv, toNat_shiftLeft_eq_uInt]
  · rw [toNat_mul_eq_uInt, toNat_udiv_eq_fdiv]
    rfl

theorem presCCorrected_toInt (c : Calib) (p : BitVec 32) :
    (presCCorrected c p).toInt = Plain.presCCorrected c p.toNat := by
  simp only [presCCorrected, Plain.presCCorrected, toInt_add_eq_sInt, toInt_mul_eq_sInt, toInt_sshiftRight_eq_shr,
    toInt_ushiftRight_eq_sInt, toNat_mul_eq_uInt, toNat_ushiftRight_eq_shr, toInt_eq_sInt_toNat Nat.ofNat_pos p,
    calib32_toInt, Reference.wordValue, Nat.ofNat_pos]

/-- The model's `pres_c` is the formula in plain integers, the zero denominator included (R191). -/
theorem presC_eq_reference (c : Calib) (adcP : BitVec 20) (tFine : BitVec 32) :
    presC c adcP tFine = Reference.presCBits c adcP tFine := by
  simp only [presC_eq_stages, Reference.presCBits, Plain.referencePresC_eq_stages, presCDenominator_eq_zero_iff]
  split
  · rfl
  · rw [← presCDenominator_toInt, ← presCNumerator_toNat, ← presCQuotient_toNat, ← presCCorrected_toInt,
      ofInt_uInt_toInt le_rfl, BitVec.setWidth_eq]

/-- Settles O42: the command is ready and its pressure stage is the formula. -/
theorem strategyCPressureFollowsTheFormula : Obligations.StrategyCPressureFollowsTheFormula := by
  intro adcP s hphase hvalid
  rw [exec_of_ready (i := .compPC adcP) (pressureReady_of hphase hvalid), ← presC_eq_reference]
  rfl

end Sys2Proof.Machine

/-! ## Proofs: the state of the block (10_state.md). What every step keeps of the registers and of the bus trace, who
writes each register, and what the commands on the sensor leave in them. -/

namespace Sys2Proof.Machine

open Sys2Proof.Safety

/-! ### Preconditions and faults in the rules' own terms (R221, R224) -/

/-- The precondition of READ_RAW (R221). -/
theorem rawReady_iff (s : State) : rawReady s = true ↔ s.phase = .configured ∨ s.phase = .sampling :=
  atLeast_configured_iff s.phase

/-- What a command checks is its row of R221. -/
theorem execReady_iff_precondition (i : Instr) (s : State) :
    execReady i s = true ↔ Reference.precondition i s := by
  cases i <;> simp [execReady, Reference.precondition, canLoadCalib_iff, calReady_iff, rawReady_iff,
    pressureReady_iff]

/-- The fault procedure is that of rule R224. -/
theorem raiseFault_precond_eq_faulted (w : CmdWord) (s : State) :
    raiseFault .precond w s = Reference.faulted 0b01 w s := rfl

/-- A command whose precondition fails raises PRECOND and does nothing else (R225). -/
theorem exec_of_not_ready {i : Instr} {s : State} (h : execReady i s = false) :
    exec i s = .next (Reference.faulted 0b01 (encode i) s) := by
  simp [exec_eq_next, h, raiseFault_precond_eq_faulted]

/-! ### Invariants of a step -/

/-- A property that holds of the power-on state, that neither a fault nor the host's queue touches, and that the
commands on the queue keep, is kept by a step. -/
theorem step_keeps {P : State → Prop} {s t : State} (h : step s = .next t) (hs : P s)
    (hqueue : ∀ rest, P (setQueue rest s)) (hpower : ∀ rest, P (powerOnReset (setQueue rest s)))
    (hfault : ∀ c w u, P u → P (raiseFault c w u))
    (hexec : ∀ w rest i, s.hostQueue = .command w :: rest → decode s.strategies w = .ok i →
      ∀ u v, P u → exec i u = .next v → P v) : P t := by
  obtain ⟨-, rfl⟩ | ⟨rest, -, rfl⟩ | ⟨w, rest, i, hq, hd, hi⟩ | ⟨w, rest, e, -, -, rfl⟩ := step_cases h
  · exact hs
  · exact hpower rest
  · exact hexec w rest i hq hd _ _ (hqueue rest) hi
  · exact hfault .illegal w _ (hqueue rest)

/-- A property that no fault touches and that every command that runs keeps is kept by every command. -/
theorem exec_keeps {P : State → Prop} {i : Instr} {s t : State} (h : exec i s = .next t)
    (hfault : ∀ c w, P (raiseFault c w s)) (heffect : execReady i s = true → P (execEffect i s)) : P t := by
  obtain ⟨hready, rfl⟩ | ⟨-, rfl⟩ := exec_cases h
  · exact heffect hready
  · exact hfault .precond (encode i)

theorem registersConsistent_setQueue {s : State} (h : RegistersConsistent s) (moves : List HostMove) :
    RegistersConsistent (setQueue moves s) := { h with }

theorem registersConsistent_raiseFault {s : State} (h : RegistersConsistent s) (c : FaultCause) (w : CmdWord) :
    RegistersConsistent (raiseFault c w s) :=
  { h with
    faultRecorded := by
      have hrecorded := h.faultRecorded
      simp only [ne_eq, raiseFault_fault_ne_zero, not_false_eq_true, raiseFault_faultCmd, true_iff]
      split
      · rfl
      · exact hrecorded.mp ‹_› }

/-- The power-on reset restores the consistent registers, in any build that has a strategy (R6, R250). -/
theorem registersConsistent_powerOnReset {s : State} (h : s.strategies.nonEmpty = true) :
    RegistersConsistent (powerOnReset s) := by
  constructor
  case someStrategy => exact h
  all_goals simp [State.reset, Reg.unwritten, calReady, rawReady, Phase.atLeast, Phase.code]

/-! ### What each command that runs keeps of the registers -/

theorem strategyTag_ne_zero (st : Strategy) : strategyTag st ≠ 0 := by cases st <;> decide

/-- Bit 1 of the encoded `config` byte is 0 (R49, R121). -/
theorem packConfig_bit1 (f : ConfigFields) : (packConfig f).getLsbD 1 = false := by
  simp [packConfig]

theorem registersConsistent_writeTempInt {s : State} (h : RegistersConsistent s) (hready : calReady s = true)
    (st : Strategy) (adcT : BitVec 20) : RegistersConsistent (writeTempInt st adcT s) :=
  { h with
    tFineHeld := fun _ => ⟨rfl, hready⟩
    tFineTagged := iff_of_true rfl (strategyTag_ne_zero st)
    outTTagged := iff_of_true (strategyTag_ne_zero st) (.inl rfl) }

theorem registersConsistent_writeTempF {s : State} (h : RegistersConsistent s) (hready : calReady s = true)
    (adcT : BitVec 20) : RegistersConsistent (writeTempF adcT s) :=
  { h with
    tFineHeld := fun _ => ⟨rfl, hready⟩
    tFineTagged := iff_of_true rfl (strategyTag_ne_zero .b)
    outTTagged := iff_of_true (strategyTag_ne_zero .b) (.inr rfl) }

theorem registersConsistent_writePresA {s : State} (h : RegistersConsistent s) (adcP : BitVec 20) :
    RegistersConsistent (writePresA adcP s) :=
  { h with outPTagged := iff_of_true (strategyTag_ne_zero .a) (.inl rfl) }

theorem registersConsistent_writePresF {s : State} (h : RegistersConsistent s) (adcP : BitVec 20) :
    RegistersConsistent (writePresF adcP s) :=
  { h with outPTagged := iff_of_true (strategyTag_ne_zero .b) (.inr rfl) }

theorem registersConsistent_writePresC {s : State} (h : RegistersConsistent s) (adcP : BitVec 20) :
    RegistersConsistent (writePresC adcP s) :=
  { h with outPTagged := iff_of_true (strategyTag_ne_zero .c) (.inl rfl) }

theorem registersConsistent_writeEncoded {s : State} (h : RegistersConsistent s) (f : ConfigFields) :
    RegistersConsistent (writeEncoded f s) :=
  { h with configBit1 := fun _ => packConfig_bit1 f }

/-- RESET goes back to UNINIT, where the phase promises nothing of the other registers (R141). -/
theorem registersConsistent_reset {s : State} (h : RegistersConsistent s) :
    RegistersConsistent (execEffect .reset s) :=
  { h with
    calHeld := fun hready => absurd hready (by simp [execEffect, calReady, atLeast_calLoaded_iff])
    shadowHeld := fun hready => absurd hready (by simp [execEffect, rawReady, atLeast_configured_iff])
    rawHeld := fun hphase => absurd hphase (by simp [execEffect])
    resetSeenPhase := fun _ => rfl
    tFineHeld := fun hvalid => absurd hvalid (by simp [execEffect])
    tFineTagged := by simp [execEffect] }

/-- LOAD_CALIB fills the store that CAL_LOADED promises (R142). -/
theorem registersConsistent_loadCalibration {s : State} (h : RegistersConsistent s) :
    RegistersConsistent (loadCalibration s) :=
  { h with
    calHeld := fun _ => rfl
    shadowHeld := fun hready => absurd hready (by simp [loadCalibration, rawReady, atLeast_configured_iff])
    rawHeld := fun hphase => absurd hphase (by simp [loadCalibration])
    resetSeenPhase := fun hseen => absurd hseen (by simp [loadCalibration])
    tFineHeld := fun hvalid => absurd hvalid (by simp [loadCalibration])
    tFineTagged := by simp [loadCalibration] }

/-- Where a RESET is pending the phase is UNINIT, so past UNINIT none is. -/
theorem resetSeen_false_of_ready {s : State} (h : RegistersConsistent s) (hready : calReady s = true) :
    s.resetSeen = false := by
  cases hseen : s.resetSeen
  · rfl
  · exact absurd (h.resetSeenPhase hseen) ((calReady_iff s).mp hready)

theorem phaseAfterApply_eq_sampling_iff (p : Phase) : phaseAfterApply p = .sampling ↔ p = .sampling := by
  cases p <;> decide

theorem calReady_of_rawReady {s : State} (h : rawReady s = true) : calReady s = true := by
  obtain hphase | hphase := (rawReady_iff s).mp h <;> simp [calReady_iff, hphase]

/-- The phase after APPLY_CONFIG is past CAL_LOADED (R144). -/
theorem rawReady_applyConfiguration {s : State} (hready : calReady s = true) (f : ConfigFields) :
    rawReady (applyConfiguration f s) = true := phaseAfterApply_of_ready hready

/-- APPLY_CONFIG fills the shadow that CONFIGURED promises (R144). -/
theorem registersConsistent_applyConfiguration {s : State} (h : RegistersConsistent s) (hready : calReady s = true)
    (f : ConfigFields) : RegistersConsistent (applyConfiguration f s) :=
  { registersConsistent_writeEncoded h f with
    calHeld := fun _ => h.calHeld hready
    shadowHeld := fun _ => rfl
    rawHeld := fun hphase => h.rawHeld ((phaseAfterApply_eq_sampling_iff s.phase).mp hphase)
    resetSeenPhase := fun hseen => absurd hseen (by simp [applyConfiguration, resetSeen_false_of_ready h hready])
    tFineHeld := fun hvalid =>
      ⟨(h.tFineHeld hvalid).1, calReady_of_rawReady (rawReady_applyConfiguration hready f)⟩ }

/-- READ_RAW fills the samples that SAMPLING promises (R147). -/
theorem registersConsistent_readRawSample {s : State} (h : RegistersConsistent s) (hready : rawReady s = true) :
    RegistersConsistent (readRawSample s) :=
  have hphase : (readRawSample s).phase = .sampling := phaseAfterRaw_of_ready hready
  have hcal : calReady s = true := calReady_of_rawReady hready
  { h with
    calHeld := fun _ => h.calHeld hcal
    shadowHeld := fun _ => h.shadowHeld hready
    rawHeld := fun _ => ⟨rfl, rfl⟩
    resetSeenPhase := fun hseen => absurd hseen (by simp [readRawSample, resetSeen_false_of_ready h hcal])
    tFineHeld := fun hvalid => ⟨(h.tFineHeld hvalid).1, by simp [calReady_iff, hphase]⟩ }

/-- A command that runs keeps the registers consistent. -/
theorem registersConsistent_execEffect {i : Instr} {s : State} (h : RegistersConsistent s)
    (hready : execReady i s = true) : RegistersConsistent (execEffect i s) := by
  cases i with
  | reset => exact registersConsistent_reset h
  | loadCalib => exact registersConsistent_loadCalibration h
  | applyConfig f => exact registersConsistent_applyConfiguration h hready f
  | readRaw => exact registersConsistent_readRawSample h hready
  | readStatus | readChipId | decodeConfig _ _ | decodeStatus _ => exact { h with }
  | encodeConfig f => exact registersConsistent_writeEncoded h f
  | compTA adcT => exact registersConsistent_writeTempInt h hready .a adcT
  | compTB adcT => exact registersConsistent_writeTempF h hready adcT
  | compTC adcT => exact registersConsistent_writeTempInt h hready .c adcT
  | compPA adcP => exact registersConsistent_writePresA h adcP
  | compPB adcP => exact registersConsistent_writePresF h adcP
  | compPC adcP => exact registersConsistent_writePresC h adcP
  | compTPA adcT adcP =>
    exact registersConsistent_writePresA (registersConsistent_writeTempInt h hready .a adcT) adcP
  | compTPB adcT adcP =>
    exact registersConsistent_writePresF (registersConsistent_writeTempF h hready adcT) adcP
  | compTPC adcT adcP =>
    exact registersConsistent_writePresC (registersConsistent_writeTempInt h hready .c adcT) adcP

/-- Settles O16: the invariant holds after a power-on reset, and the queue, a fault and every command that runs keep
it. -/
theorem everyStepKeepsTheRegistersConsistent : Obligations.EveryStepKeepsTheRegistersConsistent := by
  intro s h
  obtain ⟨t, ht⟩ := step_eq_next s
  refine ⟨t, ht, step_keeps ht h (registersConsistent_setQueue h)
    (fun _ => registersConsistent_powerOnReset h.someStrategy) (fun c w _ hu => registersConsistent_raiseFault hu c w)
    fun _ _ _ _ _ u v hu hv => exec_keeps hv (registersConsistent_raiseFault hu)
      (registersConsistent_execEffect hu)⟩

/-! ### The bus trace: what a command that runs appends to it (R70, R75, R257) -/

/-- The transactions of a command where its precondition holds (R70). -/
def transactions (i : Instr) (s : State) : List BusEvent :=
  match i with
  | .reset => [.write addrReset resetCode]
  | .loadCalib => [.read addrCalib 24 (answerBytes s 24)]
  | .applyConfig f => [.write addrConfig (packConfig f), .write addrCtrlMeas (packCtrlMeas f)]
  | .readStatus => [.read addrStatus 1 (answerBytes s 1)]
  | .readRaw => [.read addrRaw 6 (answerBytes s 6)]
  | .readChipId => [.read addrChipId 1 (answerBytes s 1)]
  | .encodeConfig _ | .decodeConfig _ _ | .decodeStatus _ => []
  | .compTA _ | .compTB _ | .compTC _ | .compPA _ | .compPB _ | .compPC _ => []
  | .compTPA _ _ | .compTPB _ _ | .compTPC _ _ => []

theorem execEffect_busTrace (i : Instr) (s : State) :
    (execEffect i s).busTrace = s.busTrace ++ transactions i s := by
  cases i <;> simp [execEffect, transactions, loadCalibration, applyConfiguration, readRawSample]

/-- Each command makes only transactions of the table in R70. -/
theorem transactions_allowed (i : Instr) (s : State) : (transactions i s).all allowedEvent = true := by
  cases i <;> simp [transactions, allowedEvent]

/-- APPLY_CONFIG makes both writes of a configuration change, and no other command makes either (R75). -/
theorem transactions_paired (i : Instr) (s : State) : configWritesPaired (transactions i s) = true := by
  cases i <;> simp [transactions, configWritesPaired, addrReset, addrConfig, addrCtrlMeas]

/-- RESET makes a calibration read possible, and LOAD_CALIB uses it up (R142, R257). -/
theorem transactions_loads {i : Instr} {s : State} (h : execReady i s = true) :
    pendingReset s.resetSeen (transactions i s) = some (execEffect i s).resetSeen := by
  cases i
  case loadCalib =>
    obtain ⟨-, hseen⟩ := (canLoadCalib_iff s).mp h
    simp [transactions, pendingReset, execEffect, loadCalibration, hseen]
  all_goals simp [transactions, pendingReset, execEffect, applyConfiguration, readRawSample, addrReset, addrConfig,
    addrCtrlMeas, addrCalib, addrStatus, addrRaw, addrChipId]

/-! ### The predicates of the trace on a trace that grows -/

/-- A write of another address than `config` is allowed unless it is a `ctrl_meas` write that stands alone. -/
theorem configWritesPaired_write_of_ne {a : Byte} (h : a ≠ addrConfig) (v : Byte) (rest : List BusEvent) :
    configWritesPaired (.write a v :: rest) = (decide (a ≠ addrCtrlMeas) && configWritesPaired rest) := by
  rw [configWritesPaired.eq_def]
  simp only [if_neg h]
  by_cases hc : a = addrCtrlMeas <;> simp [hc]

theorem configWritesPaired_append {old new : List BusEvent} (hold : configWritesPaired old = true)
    (hnew : configWritesPaired new = true) : configWritesPaired (old ++ new) = true := by
  induction old using configWritesPaired.induct with
  | case1 => exact hnew
  | case2 v b v' rest ih => simp_all [configWritesPaired]
  | case3 v rest hrest => simp_all [configWritesPaired]
  | case4 v rest hne => simp [configWritesPaired_write_of_ne hne] at hold
  | case5 a v rest hne hne' ih => simp_all [configWritesPaired_write_of_ne hne]
  | case6 a n bytes rest ih => exact ih hold

theorem pendingReset_append (pending : Bool) (old new : List BusEvent) :
    pendingReset pending (old ++ new) = (pendingReset pending old).bind (pendingReset · new) := by
  induction old generalizing pending with
  | nil => rfl
  | cons e old ih =>
    cases e with
    | write a v => exact ih _
    | read a n bytes =>
      simp only [List.cons_append, pendingReset]
      split_ifs
      · exact ih false
      · rfl
      · exact ih pending

theorem traceConsistent_setQueue {s : State} (h : TraceConsistent s) (moves : List HostMove) :
    TraceConsistent (setQueue moves s) := { h with }

theorem traceConsistent_raiseFault {s : State} (h : TraceConsistent s) (c : FaultCause) (w : CmdWord) :
    TraceConsistent (raiseFault c w s) := { h with }

theorem traceConsistent_powerOnReset (s : State) : TraceConsistent (powerOnReset s) := ⟨rfl, rfl, rfl⟩

/-- A command that runs keeps the trace consistent: its transactions are consistent with what stands before. -/
theorem traceConsistent_execEffect {i : Instr} {s : State} (h : TraceConsistent s) (hready : execReady i s = true) :
    TraceConsistent (execEffect i s) where
  allowed := by simp [execEffect_busTrace, List.all_append, h.allowed, transactions_allowed]
  paired := by
    rw [execEffect_busTrace]
    exact configWritesPaired_append h.paired (transactions_paired i s)
  loads := by
    rw [execEffect_busTrace, pendingReset_append, h.loads]
    exact transactions_loads hready

/-- Settles O17: the trace is empty after a power-on reset, the queue and a fault leave it, and every command that runs
appends transactions that keep it consistent. -/
theorem everyStepKeepsTheTraceConsistent : Obligations.EveryStepKeepsTheTraceConsistent := by
  intro s h
  obtain ⟨t, ht⟩ := step_eq_next s
  refine ⟨t, ht, step_keeps ht h (traceConsistent_setQueue h) (fun _ => traceConsistent_powerOnReset _)
    (fun c w _ hu => traceConsistent_raiseFault hu c w) fun _ _ _ _ _ u v hu hv =>
      exec_keeps hv (traceConsistent_raiseFault hu) (traceConsistent_execEffect hu)⟩

/-! ### The reset state (R43, R250) -/

theorem registersConsistent_stateReset : RegistersConsistent State.reset :=
  registersConsistent_powerOnReset (s := State.reset) rfl

/-- Settles O15: the reset state is what the power-on reset leaves of itself. -/
theorem resetStateMeetsTheInvariants : Obligations.ResetStateMeetsTheInvariants :=
  ⟨registersConsistent_stateReset, traceConsistent_powerOnReset State.reset⟩

/-- What a host reads of each register after a power-on reset (R43). -/
theorem hostRead_powerOnReset (r : HostReg) (s : State) :
    hostRead r (powerOnReset s) =
      if r ∈ [.phase, .resetSeen, .tFineValid, .tFineSrc, .outTSrc, .outPSrc, .fault] then .ok (0#(hostWidth r))
      else .error (.holdsNoValue r) := by
  cases r <;> rfl

/-- Settles O13: the step is the power-on reset, and `State.reset` is its own power-on reset. -/
theorem powerOnResetLeavesTheResetState : Obligations.PowerOnResetLeavesTheResetState := by
  intro s rest hq
  refine ⟨powerOnReset (setQueue rest s), by simp [step, nextMove, hq], fun u hu => ?_⟩
  obtain ⟨v, rfl⟩ : ∃ v, u = powerOnReset v := by
    obtain rfl | rfl := hu
    exacts [⟨_, rfl⟩, ⟨State.reset, rfl⟩]
  refine ⟨rfl, fun r => ?_⟩
  rw [hostRead_powerOnReset]
  split_ifs <;> rfl

/-! ### Faults are sticky (R39, R227) -/

/-- From `s` to `t` no bit of `FAULT` is cleared, and a recorded word stays. -/
structure KeepsFaults (s t : State) : Prop where
  bits : s.fault &&& t.fault = s.fault
  word : s.fault ≠ 0 → t.faultCmd = s.faultCmd

theorem keepsFaults_raiseFault (c : FaultCause) (w : CmdWord) (s : State) : KeepsFaults s (raiseFault c w s) :=
  ⟨raiseFault_sticky c w s, fun h => by rw [raiseFault_faultCmd, if_neg h]⟩

/-- What leaves both registers as they are keeps the faults. -/
theorem keepsFaults_of_eq {s t : State} (hfault : t.fault = s.fault) (hword : t.faultCmd = s.faultCmd) :
    KeepsFaults s t :=
  ⟨by simp [hfault], fun _ => hword⟩

theorem exec_keepsFaults {i : Instr} {s t : State} (h : exec i s = .next t) : KeepsFaults s t :=
  exec_keeps h (keepsFaults_raiseFault · · s)
    fun _ => keepsFaults_of_eq (execEffect_fault i s) (execEffect_faultCmd i s)

/-- Settles O11: of what a step can do, only the power-on reset clears a fault. -/
theorem faultBitsAreSticky : Obligations.FaultBitsAreSticky := by
  intro s hpower
  obtain ⟨t, ht⟩ := step_eq_next s
  have hkeeps : KeepsFaults s t := by
    obtain ⟨-, rfl⟩ | ⟨rest, hq, -⟩ | ⟨w, rest, i, -, -, hexec⟩ | ⟨w, rest, e, -, -, rfl⟩ := step_cases ht
    · exact keepsFaults_of_eq rfl rfl
    · exact absurd hq (hpower rest)
    · exact { exec_keepsFaults hexec with }
    · exact { keepsFaults_raiseFault .illegal w (setQueue rest s) with }
  exact ⟨t, ht, hkeeps.bits, hkeeps.word⟩

/-! ### Each register's writers (R23, R26, R33–R38, R70, R182) -/

/-- Settles O21: a fault writes `FAULT` and `FAULT_CMD` alone, and each command that runs writes its own registers. -/
theorem commandsWriteOnlyTheirOwnRegisters : Obligations.CommandsWriteOnlyTheirOwnRegisters := by
  intro i s
  refine ⟨_, exec_eq_next i s, ?_⟩
  cases hready : execReady i s with
  | false => simp [← execReady_iff_precondition, hready]
  | true =>
    cases i <;> simp [execEffect, loadCalibration, applyConfiguration, readRawSample]

/-! ### The values that the commands form from bytes and fields (R48, R49, R66, R121, R143, R148) -/

/-- The packed `config` byte has each field at its bits (R49, R121). -/
theorem packConfig_eq_configByte (f : ConfigFields) : packConfig f = Reference.configByte f := by
  ext k hk
  simp only [packConfig, Reference.configByte]
  grind

/-- The packed `ctrl_meas` byte has each field at its bits (R48, R121). -/
theorem packCtrlMeas_eq_ctrlMeasByte (f : ConfigFields) : packCtrlMeas f = Reference.ctrlMeasByte f := by
  ext k hk
  simp only [packCtrlMeas, Reference.ctrlMeasByte]
  grind

/-- A calibration word is its low byte and 256 times its high byte (R66, R143). -/
theorem calibWord_eq_ofNat (lo hi : Byte) : calibWord lo hi = BitVec.ofNat 16 (lo.toNat + 256 * hi.toNat) := by
  apply BitVec.eq_of_toNat_eq
  rw [calibWord, BitVec.toNat_append, BitVec.toNat_ofNat, ← Nat.shiftLeft_add_eq_or_of_lt lo.isLt]
  omega

theorem calibOfBytes_eq_calibration (b : Nat → Byte) : calibOfBytes b = Reference.calibration b := by
  simp only [calibOfBytes, calibWord_eq_ofNat]
  rfl

/-- A raw sample is msb * 4096 + lsb * 16 + (xlsb >> 4) (R148). -/
theorem assemble20_eq_sample (msb lsb xlsb : Byte) : assemble20 msb lsb xlsb = Reference.sample msb lsb xlsb := by
  apply BitVec.eq_of_toNat_eq
  rw [assemble20, Reference.sample, BitVec.toNat_append, BitVec.toNat_append, BitVec.toNat_ofNat,
    ← Nat.shiftLeft_add_eq_or_of_lt lsb.isLt, ← Nat.shiftLeft_add_eq_or_of_lt (BitVec.isLt _),
    BitVec.extractLsb'_toNat]
  omega

theorem statusMeasuring_eq_decide (sb : Byte) : statusMeasuring sb = decide (sb.toNat / 8 % 2 = 1) :=
  Nat.testBit_eq_decide_div_mod_eq

theorem statusImUpdate_eq_decide (sb : Byte) : statusImUpdate sb = decide (sb.toNat % 2 = 1) :=
  Nat.testBit_zero _

/-- `PHASE` after APPLY_CONFIG, as R144 says it. -/
theorem phaseAfterApply_eq_ite (p : Phase) :
    phaseAfterApply p = if p = .calLoaded then .configured else p := by
  cases p <;> rfl

/-! ### The commands on the sensor, and ENCODE_CONFIG -/

/-- Settles O25: ENCODE_CONFIG has no precondition, and the packed bytes are the rule's. -/
theorem encodeConfigPacksTheTwoBytes : Obligations.EncodeConfigPacksTheTwoBytes := by
  intro f s
  rw [exec_of_ready (i := .encodeConfig f) rfl, ← packConfig_eq_configByte, ← packCtrlMeas_eq_ctrlMeasByte]
  rfl

/-- Settles O31: the command is ready, and its store is the rule's, word by word. -/
theorem loadCalibDecodesTheTwelveWords : Obligations.LoadCalibDecodesTheTwelveWords := by
  intro s hphase hseen
  have hready : execReady .loadCalib s = true := (canLoadCalib_iff s).mpr ⟨hphase, hseen⟩
  rw [exec_of_ready hready, ← calibOfBytes_eq_calibration]
  rfl

/-- Settles O34: the command is ready; its two writes stand in the order of R75. -/
theorem applyConfigUpdatesShadowAndSensor : Obligations.ApplyConfigUpdatesShadowAndSensor := by
  intro f s hphase
  have hready : execReady (.applyConfig f) s = true := (calReady_iff s).mpr hphase
  rw [exec_of_ready hready, ← packConfig_eq_configByte, ← packCtrlMeas_eq_ctrlMeasByte, ← phaseAfterApply_eq_ite,
    List.append_cons]
  rfl

/-- Settles O37: the command is ready, and its samples are the rule's. -/
theorem readRawAssemblesBothSamples : Obligations.ReadRawAssemblesBothSamples := by
  intro s hphase
  have hready : rawReady s = true := (rawReady_iff s).mpr hphase
  rw [exec_of_ready (i := .readRaw) hready, ← assemble20_eq_sample, ← assemble20_eq_sample,
    ← phaseAfterRaw_of_ready hready]
  rfl

/-- Settles O36: the flags are bits 3 and 0 of the byte. -/
theorem readStatusStoresTheByteAndItsFlags : Obligations.ReadStatusStoresTheByteAndItsFlags := by
  intro s
  rw [exec_of_ready (i := .readStatus) rfl, ← statusMeasuring_eq_decide, ← statusImUpdate_eq_decide]
  rfl

/-- Settles O38: the byte is stored as it comes. -/
theorem readChipIdStoresTheByte : Obligations.ReadChipIdStoresTheByte := fun _ => rfl

/-! ### The alias codes (R27, R28, R30, R124) -/

/-- The fields come back from the two bytes (R125). -/
theorem unpackConfig_bytes (f : ConfigFields) :
    unpackConfig (Reference.configByte f) (Reference.ctrlMeasByte f) = f := by
  obtain ⟨osT, osP, mode, odr, filter, spi3w⟩ := f
  simp only [unpackConfig, Reference.configByte, Reference.ctrlMeasByte, ConfigFields.mk.injEq]
  refine ⟨?_, ?_, ?_, ?_, ?_, ?_⟩ <;>
    (ext k hk; simp only [BitVec.getElem_extractLsb', BitVec.getLsbD_append]; grind)

/-- The `ctrl_meas` byte tells apart every two codes of its fields. -/
theorem ctrlMeasByte_inj_iff (f g : ConfigFields) :
    Reference.ctrlMeasByte f = Reference.ctrlMeasByte g ↔ f.osT = g.osT ∧ f.osP = g.osP ∧ f.mode = g.mode := by
  constructor
  · intro h
    have hf := unpackConfig_bytes f
    have hg := unpackConfig_bytes g
    rw [h] at hf
    exact ⟨(congrArg (·.osT) hf).symm.trans (congrArg (·.osT) hg),
      (congrArg (·.osP) hf).symm.trans (congrArg (·.osP) hg),
      (congrArg (·.mode) hf).symm.trans (congrArg (·.mode) hg)⟩
  · rintro ⟨hosT, hosP, hmode⟩
    rw [Reference.ctrlMeasByte, hosT, hosP, hmode, Reference.ctrlMeasByte]

/-- The `config` byte tells apart every two codes of its fields. -/
theorem configByte_inj_iff (f g : ConfigFields) :
    Reference.configByte f = Reference.configByte g ↔ f.odr = g.odr ∧ f.filter = g.filter ∧ f.spi3w = g.spi3w := by
  constructor
  · intro h
    have hf := unpackConfig_bytes f
    have hg := unpackConfig_bytes g
    rw [h] at hf
    exact ⟨(congrArg (·.odr) hf).symm.trans (congrArg (·.odr) hg),
      (congrArg (·.filter) hf).symm.trans (congrArg (·.filter) hg),
      (congrArg (·.spi3w) hf).symm.trans (congrArg (·.spi3w) hg)⟩
  · rintro ⟨hodr, hfilter, hspi3w⟩
    rw [Reference.configByte, hodr, hfilter, hspi3w, Reference.configByte]

/-- Settles O55: the tables by evaluation, and ENCODE_CONFIG because its bytes tell the codes apart. -/
theorem sensorCodeAliasesAgree : Obligations.SensorCodeAliasesAgree := by
  refine ⟨⟨rfl, rfl, rfl, rfl, rfl, rfl, rfl⟩, fun f g s => ?_⟩
  refine ⟨_, _, encodeConfigPacksTheTwoBytes f s, encodeConfigPacksTheTwoBytes g s, ?_, ?_⟩
  · simpa using ctrlMeasByte_inj_iff f g
  · simpa using configByte_inj_iff f g

/-! ### The words of the calibration store in the formulas (R24, R174) -/

/-- A positive integer below 2^53 is the value of some bit pattern: its leading bit is shifted to bit 52. -/
theorem exists_f64Value_eq_natCast {n : ℕ} (hpos : n ≠ 0) (hlt : n < 2 ^ 53) (neg : Bool) :
    ∃ y, Reference.f64Value y = some (signFactor neg * n) := by
  have hlog : n.log2 < 53 := (Nat.log2_lt hpos).mpr hlt
  have hself : 2 ^ n.log2 ≤ n := Nat.log2_self_le hpos
  have hnext : n < 2 ^ (n.log2 + 1) := Nat.lt_log2_self
  have hmant : 2 ^ 52 ≤ n * 2 ^ (52 - n.log2) := by
    calc 2 ^ 52 = 2 ^ n.log2 * 2 ^ (52 - n.log2) := by rw [← pow_add]; congr 1; omega
      _ ≤ n * 2 ^ (52 - n.log2) := Nat.mul_le_mul_right _ hself
  have hmant' : n * 2 ^ (52 - n.log2) ≤ 2 ^ 53 := by
    calc n * 2 ^ (52 - n.log2) ≤ 2 ^ (n.log2 + 1) * 2 ^ (52 - n.log2) := Nat.mul_le_mul_right _ hnext.le
      _ = 2 ^ 53 := by rw [← pow_add]; congr 1; omega
  refine ⟨_, (f64Value_ofMagnitude neg (a := n.log2 + 1022) hmant' (.inr hmant) ?_).trans ?_⟩
  · rw [f64InfBits]
    omega
  · have hscale : (2 : ℚ) ^ (52 - n.log2) * 2 ^ (((n.log2 + 1022 : ℕ) : ℤ) - 1074) = 1 := by
      rw [← zpow_natCast, ← zpow_add₀ two_ne_zero]
      exact (congrArg _ (by omega)).trans (zpow_zero 2)
    push_cast at hscale ⊢
    rw [← mul_assoc, mul_assoc, hscale, mul_one]

theorem signFactor_mul_natAbs (n : ℤ) : signFactor (decide (n < 0)) * n.natAbs = (n : ℚ) := by
  obtain hneg | hnonneg := lt_or_ge n 0
  · simp [signFactor, hneg, abs_of_neg hneg]
  · simp [signFactor, hnonneg, abs_of_nonneg hnonneg]

theorem two_pow_le_overflowBound : 2 ^ 53 ≤ Reference.overflowBound := by
  have hscale : (2 : ℚ) ^ (1 : ℤ) ≤ 2 ^ (971 : ℤ) := zpow_le_zpow_right₀ one_le_two (by norm_num)
  rw [zpow_one] at hscale
  calc (2 : ℚ) ^ 53 ≤ (2 ^ 53 - 1 / 2) * 2 := by norm_num
    _ ≤ (2 ^ 53 - 1 / 2) * 2 ^ (971 : ℤ) := mul_le_mul_of_nonneg_left hscale (by norm_num)
    _ = Reference.overflowBound := overflowBound_eq.symm

/-- `f64(n)` is exact below 2^53: rounding to nearest finds the bit pattern whose value is `n`. -/
theorem f64Value_f64OfInt {n : ℤ} (h : |n| < 2 ^ 53) : Reference.f64Value (f64OfInt n) = some (n : ℚ) := by
  by_cases h0 : n = 0
  · subst h0
    exact f64Value_zero false
  have habs : n.natAbs < 2 ^ 53 := by
    rw [Int.abs_eq_natAbs] at h
    omega
  have hbound : |(n : ℚ)| < Reference.overflowBound :=
    calc |(n : ℚ)| < 2 ^ 53 := by exact_mod_cast h
      _ ≤ Reference.overflowBound := two_pow_le_overflowBound
  have hround := f64Round_correct (decide (n < 0)) 0 (Int.natAbs_pos.mpr h0) one_pos
  simp only [Nat.cast_one, div_one, zpow_zero, mul_one, signFactor_mul_natAbs] at hround
  obtain ⟨y, hy⟩ := exists_f64Value_eq_natCast (Int.natAbs_ne_zero.mpr h0) habs (decide (n < 0))
  rw [signFactor_mul_natAbs] at hy
  obtain ⟨z, hz, hnear, -⟩ := hround.finite hbound
  have hzero : |z - n| ≤ 0 := by simpa using hnear y n hy
  rw [f64OfInt, hz, sub_eq_zero.mp (abs_nonpos_iff.mp hzero)]

theorem abs_wordValue_lt (c : Calib) (word : CalibWord) : |Reference.wordValue c word| < 2 ^ 53 := by
  have hlo := (calib32 c word).le_toInt
  have hhi := (calib32 c word).toInt_lt
  rw [← calib32_toInt, abs_lt]
  omega

/-- A word of the store enters the binary64 formulas with its value. -/
theorem f64Value_calibF64 (c : Calib) (word : CalibWord) :
    Reference.f64Value (calibF64 c word) = some (Reference.wordValue c word : ℚ) := by
  have hnumber : calibNumber c word = Reference.wordValue c word := by cases word <;> rfl
  rw [calibF64, hnumber]
  exact f64Value_f64OfInt (abs_wordValue_lt c word)

/-- Settles O32: each conversion keeps the value, the binary64 one because 16 bits fit its fraction. -/
theorem calibrationWordsHaveTheirSigns : Obligations.CalibrationWordsHaveTheirSigns :=
  ⟨fun x => ⟨unsigned32_toInt x, signed32_toInt x, unsigned64_toInt x, signed64_toInt x⟩, adc32_toInt,
    widen64_toInt, fun c word => ⟨calib32_toInt c word, calib64_toInt c word, f64Value_calibF64 c word⟩⟩

/-! ### RESET_SEEN and TFINE_VALID: who sets them, and what waits for them (R22, R33, R142, R256, R257) -/

/-- Without a RESET pending, LOAD_CALIB faults (R142). -/
theorem exec_loadCalib_of_not_resetSeen {s : State} (h : s.resetSeen = false) :
    exec .loadCalib s = .next (Reference.faulted 0b01 0x0200000000000000#64 s) :=
  exec_of_not_ready (i := .loadCalib) (by simp [execReady, canLoadCalib, h])

/-- Only RESET makes `RESET_SEEN` 1 (R22). -/
theorem exec_keeps_resetSeen_false {i : Instr} {s t : State} (hi : i ≠ .reset) (h : s.resetSeen = false)
    (hexec : exec i s = .next t) : t.resetSeen = false :=
  exec_keeps (P := fun u => u.resetSeen = false) hexec (fun _ _ => h) fun _ => by
    cases i with
    | reset => exact absurd rfl hi
    | loadCalib => rfl
    | _ => exact h

/-- Settles O33: RESET_SEEN is 0 after a load, LOAD_CALIB then faults, and only RESET changes that. -/
theorem secondLoadFaultsUntilTheNextReset : Obligations.SecondLoadFaultsUntilTheNextReset := by
  refine ⟨fun s hphase hseen => ?_, fun s h => exec_loadCalib_of_not_resetSeen h, fun i s hi h => ?_,
    fun s h hmoves => ?_⟩
  · exact ⟨_, loadCalibDecodesTheTwelveWords s hphase hseen, rfl, exec_loadCalib_of_not_resetSeen rfl⟩
  · exact ⟨_, exec_eq_next i s, exec_keeps_resetSeen_false hi h (exec_eq_next i s)⟩
  · obtain ⟨t, ht⟩ := step_eq_next s
    refine ⟨t, ht, step_keeps (P := fun u => u.resetSeen = false) ht h (fun _ => h) (fun _ => rfl)
      (fun _ _ _ hu => hu) fun w rest i hq hd u v hu hv => exec_keeps_resetSeen_false ?_ hu hv⟩
    rintro rfl
    exact hmoves w rest hq hd

/-- Only a command that computes a temperature makes `TFINE_VALID` 1 (R33). -/
theorem exec_keeps_tFineValid_false {i : Instr} {s t : State} (hi : Reference.isTemperatureCommand i = false)
    (h : s.tFineValid = false) (hexec : exec i s = .next t) : t.tFineValid = false :=
  exec_keeps (P := fun u => u.tFineValid = false) hexec (fun _ _ => h) fun _ => by
    cases i with
    | compTA _ | compTB _ | compTC _ | compTPA _ _ | compTPB _ _ | compTPC _ _ => cases hi
    | reset | loadCalib => rfl
    | _ => exact h

/-- A command that computes a temperature runs from CAL_LOADED on, and makes `TFINE_VALID` 1 (R33, R221). -/
theorem exec_tFineValid_of_temperature {i : Instr} {s : State} (hi : Reference.isTemperatureCommand i = true)
    (hphase : s.phase ≠ .uninit) : ∃ t, exec i s = .next t ∧ t.tFineValid = true := by
  have hready : calReady s = true := (calReady_iff s).mpr hphase
  cases i with
  | compTA _ | compTB _ | compTC _ | compTPA _ _ | compTPB _ _ | compTPC _ _ =>
    exact ⟨_, exec_of_ready hready, rfl⟩
  | _ => cases hi

theorem pressureReady_of_not_tFineValid {s : State} (h : s.tFineValid = false) : pressureReady s = false := by
  simp [pressureReady, h]

/-- Settles O57: TFINE_VALID is 0 after RESET and LOAD_CALIB, pressure then faults, and only a temperature changes
that. -/
theorem pressureWaitsForATemperature : Obligations.PressureWaitsForATemperature := by
  refine ⟨fun s => ⟨_, rfl, rfl⟩, fun s hphase hseen => ?_, fun s q h => ?_, fun i s hi h => ?_,
    fun s h hmoves => ?_, fun i s hi hphase => exec_tFineValid_of_temperature hi hphase⟩
  · exact ⟨_, loadCalibDecodesTheTwelveWords s hphase hseen, rfl⟩
  · have hready : pressureReady s = false := pressureReady_of_not_tFineValid h
    exact ⟨exec_of_not_ready (i := .compPA q) hready, exec_of_not_ready (i := .compPB q) hready,
      exec_of_not_ready (i := .compPC q) hready⟩
  · exact ⟨_, exec_eq_next i s, exec_keeps_tFineValid_false hi h (exec_eq_next i s)⟩
  · obtain ⟨t, ht⟩ := step_eq_next s
    exact ⟨t, ht, step_keeps (P := fun u => u.tFineValid = false) ht h (fun _ => h) (fun _ => rfl)
      (fun _ _ _ hu => hu) fun w rest i hq hd u v hu hv =>
        exec_keeps_tFineValid_false (hmoves w rest i hq hd) hu hv⟩

/-- Settles O49: a pressure stage reads `T_FINE` and not its tag (R192). -/
theorem pressureIgnoresWhichStrategyMadeTFine : Obligations.PressureIgnoresWhichStrategyMadeTFine := by
  intro i q s src hphase hvalid hi
  have hready : pressureReady s = true := pressureReady_of hphase hvalid
  obtain rfl | rfl | rfl := hi
  · exact ⟨_, exec_of_ready (i := .compPA q) hready, exec_of_ready (i := .compPA q) hready⟩
  · exact ⟨_, exec_of_ready (i := .compPB q) hready, exec_of_ready (i := .compPB q) hready⟩
  · exact ⟨_, exec_of_ready (i := .compPC q) hready, exec_of_ready (i := .compPC q) hready⟩

/-! ### Host reads (R42, R81) -/

/-- A read of the register `r` answers the number that the register holds, or says that it holds no value (R42). -/
def Answers (r : HostReg) {w : ℕ} (read : Except ObservationError (BitVec w)) : Option ℕ → Prop
  | some n => ∃ v, read = .ok v ∧ v.toNat = n
  | none => read = .error (.holdsNoValue r)

/-- A register that always holds a value answers it. -/
theorem answers_ok (r : HostReg) {w n : ℕ} {v : BitVec w} (h : v.toNat = n) : Answers r (.ok v) (some n) :=
  ⟨v, rfl, h⟩

/-- A register that is unwritten until a rule writes it answers by its mark. -/
theorem answers_readReg {α : Type} {w : ℕ} (r : HostReg) (reg : Reg α) {bits : α → BitVec w} {number : α → ℕ}
    (h : ∀ a, (bits a).toNat = number a) :
    Answers r (readReg r reg bits) (if reg.hasValue then some (number reg.value) else none) := by
  cases hheld : reg.hasValue
  · exact readReg_of_unheld r bits hheld
  · exact ⟨_, readReg_of_held r bits hheld, h reg.value⟩

theorem answers_hostRead (s : State) (r : HostReg) : Answers r (hostRead r s) (Reference.heldNumber r s) := by
  cases r with
  | phase =>
    simp only [hostRead, Reference.heldNumber]
    cases s.phase <;> exact answers_ok .phase rfl
  | resetSeen | tFineValid => exact answers_ok _ (BitVec.toNat_ofBool _)
  | tFineSrc | outTSrc | outPSrc | fault => exact answers_ok _ rfl
  | digT1 | digT2 | digT3 | digP1 | digP2 | digP3 | digP4 | digP5 | digP6 | digP7 | digP8 | digP9 =>
    exact answers_readReg _ s.cal fun _ => rfl
  | osT | osP | mode | odr | filter | spi3w => exact answers_readReg _ s.shadow fun _ => rfl
  | statMeasuring => exact answers_readReg _ s.statMeasuring BitVec.toNat_ofBool
  | statImUpdate => exact answers_readReg _ s.statImUpdate BitVec.toNat_ofBool
  | tFine => exact answers_readReg _ s.tFine fun _ => rfl
  | rawP => exact answers_readReg _ s.rawP fun _ => rfl
  | rawT => exact answers_readReg _ s.rawT fun _ => rfl
  | statusByte => exact answers_readReg _ s.statusByte fun _ => rfl
  | chipId => exact answers_readReg _ s.chipId fun _ => rfl
  | encConfig => exact answers_readReg _ s.encConfig fun _ => rfl
  | encCtrlMeas => exact answers_readReg _ s.encCtrlMeas fun _ => rfl
  | decFields => exact answers_readReg _ s.decFields fun _ => rfl
  | outTI32 => exact answers_readReg _ s.outTI32 fun _ => rfl
  | outPU32 => exact answers_readReg _ s.outPU32 fun _ => rfl
  | outTF64 => exact answers_readReg _ s.outTF64 fun _ => rfl
  | outPF64 => exact answers_readReg _ s.outPF64 fun _ => rfl
  | faultCmd => exact answers_readReg _ s.faultCmd fun _ => rfl

/-- Settles O58, register by register. -/
theorem hostReadAnswersTheNamedRegister : Obligations.HostReadAnswersTheNamedRegister := by
  intro s r
  have h := answers_hostRead s r
  cases hheld : Reference.heldNumber r s with
  | some n => simpa [Answers, hheld] using h
  | none => simpa [Answers, hheld] using h

end Sys2Proof.Machine

/-! ## Proofs: the bus port (20_memory.md). The bytes that the transactions of a command send, which commands write to
the sensor, and how a failed read looks. -/

namespace Sys2Proof.Machine

/-! ### What a command sends, and who writes (R62, R70, R75, R106) -/

/-- The transactions of a command send its row of R106: an address byte for each transaction, and the data byte of each
write. -/
theorem flatMap_wireOut_transactions (i : Instr) (s : State) :
    (transactions i s).flatMap wireOut = Reference.wireBytes i := by
  cases i with
  | applyConfig f =>
    simp only [transactions, packConfig_eq_configByte, packCtrlMeas_eq_ctrlMeasByte]
    rfl
  | _ => rfl

/-- Settles O23: a command that runs appends its transactions, and those send its row. -/
theorem commandsSendTheWireBytesOfTheTable : Obligations.CommandsSendTheWireBytesOfTheTable := by
  intro i s hpre
  exact ⟨_, transactions i s, exec_of_ready ((execReady_iff_precondition i s).mpr hpre), execEffect_busTrace i s,
    flatMap_wireOut_transactions i s⟩

/-- A command other than APPLY_CONFIG writes to the `reset` register or not at all (R70). -/
theorem addr_eq_reset_of_write_mem_transactions {i : Instr} {s : State} {a v : Byte} (hi : ∀ f, i ≠ .applyConfig f)
    (hwrite : .write a v ∈ transactions i s) : a = addrReset := by
  cases i with
  | applyConfig f => exact absurd rfl (hi f)
  | reset => exact (BusEvent.write.inj (List.mem_singleton.mp hwrite)).1
  | _ => simp [transactions] at hwrite

/-- What a command appends to the trace: nothing where it faults (R225), its transactions where it runs. -/
theorem exec_busTrace (i : Instr) (s : State) : ∃ t new, exec i s = .next t ∧ t.busTrace = s.busTrace ++ new ∧
    new = if execReady i s then transactions i s else [] := by
  refine ⟨_, _, exec_eq_next i s, ?_, rfl⟩
  cases execReady i s with
  | false => simp
  | true => simp [execEffect_busTrace]

/-- Settles O24: the transactions of APPLY_CONFIG are its two writes, and no other command writes but to `reset`. -/
theorem onlyApplyWritesConfigAndInOrder : Obligations.OnlyApplyWritesConfigAndInOrder := by
  refine ⟨fun f s hphase => ⟨_, applyConfigUpdatesShadowAndSensor f s hphase, rfl⟩, fun i s hi => ?_⟩
  obtain ⟨t, new, hexec, htrace, rfl⟩ := exec_busTrace i s
  refine ⟨t, _, hexec, htrace, fun a v hwrite => ?_⟩
  have hmem : .write a v ∈ transactions i s := (List.mem_ite_nil_right.mp hwrite).2
  rw [addr_eq_reset_of_write_mem_transactions hi hmem]
  decide

/-! ### A failed read: every byte is 0xFF (R63, R258) -/

/-- Three bytes 0xFF make the sample 0xFFFFF (R148). -/
theorem sample_of_all_ones : Reference.sample 0xFF#8 0xFF#8 0xFF#8 = 0xFFFFF#20 := by decide

/-- Two bytes 0xFF make the calibration word 0xFFFF (R66). -/
theorem calibWord_of_all_ones : calibWord 0xFF#8 0xFF#8 = 0xFFFF#16 := by decide

/-- A calibration store of 24 bytes 0xFF has 0xFFFF in every word (R23). -/
theorem calibration_of_all_ones {b : ℕ → Byte} (h : ∀ k < 24, b k = 0xFF#8) :
    Reference.calibration b = ⟨0xFFFF#16, 0xFFFF#16, 0xFFFF#16, 0xFFFF#16, 0xFFFF#16, 0xFFFF#16, 0xFFFF#16, 0xFFFF#16,
      0xFFFF#16, 0xFFFF#16, 0xFFFF#16, 0xFFFF#16⟩ := by
  simp [← calibOfBytes_eq_calibration, calibOfBytes, h, calibWord_of_all_ones]

/-- Settles O39: what each of the four commands leaves (O36, O38, O37 and O31) where every byte it reads is 0xFF. -/
theorem failedReadsLookLikeData : Obligations.FailedReadsLookLikeData := by
  intro s hones
  refine ⟨?status, ?chipId, fun hphase => ?samples, fun hphase hseen => ?words⟩
  case status =>
    exact ⟨_, readStatusStoresTheByteAndItsFlags s, by simp [hones], by simp [hones], rfl⟩
  case chipId =>
    exact ⟨_, readChipIdStoresTheByte s, by simp [hones], rfl⟩
  case samples =>
    exact ⟨_, readRawAssemblesBothSamples s hphase, by simp [hones, sample_of_all_ones],
      by simp [hones, sample_of_all_ones], rfl⟩
  case words =>
    exact ⟨_, loadCalibDecodesTheTwelveWords s hphase hseen, rfl, rfl, by simp [calibration_of_all_ones hones]⟩

end Sys2Proof.Machine

/-! ## Proofs: the encoding (30_encoding.md). Words and commands one to one, the rows of the opcode table, the
assembler, and the layout of DECODE_CONFIG. -/

namespace Sys2Proof.Machine

/-! ### Words and commands, one to one (R90, R100, R101) -/

/-- The operand bits of an encoded command are those of its operand area (R90). -/
theorem extractLsb'_encode_of_le {start len : ℕ} (h : start + len ≤ 56) (i : Instr) :
    (encode i).extractLsb' start len = i.operandArea.extractLsb' start len :=
  BitVec.extractLsb'_append_eq_of_add_le h

/-- In a layout of three parts, the middle one stands at its bits. -/
theorem extractLsb'_append_append_middle {m n k : ℕ} (hi : BitVec m) (x : BitVec n) (lo : BitVec k) :
    (hi ++ x ++ lo).extractLsb' k n = x := by
  rw [BitVec.extractLsb'_append_eq_of_le le_rfl, Nat.sub_self, BitVec.extractLsb'_append_eq_right]

/-- The encoded word names its command (R99, R102): the opcode selects the form, and each operand is the field at its
bits of the operand area. -/
theorem candidate_encode (i : Instr) : candidate (encode i) = some i := by
  unfold candidate
  rw [opcodeOf_encode]
  cases i <;>
    simp only [Instr.opcode, BitVec.toNat_ofNat, Nat.reducePow, Nat.reduceMod, adcTOf, adcPOf,
      extractLsb'_encode_of_le, Nat.reduceAdd, Nat.reduceLeDiff, Instr.operandArea]
  case applyConfig f | encodeConfig f =>
    congr 2
    exact (congrArg fieldsOfBits BitVec.extractLsb'_append_eq_right).trans (fieldsOfBits_bitsOfFields f)
  case decodeConfig cfg ctrl =>
    congr 2
    · exact extractLsb'_append_append_middle 0#40 cfg ctrl
    · exact BitVec.extractLsb'_append_eq_right
  case decodeStatus | compTA | compTB | compTC =>
    congr 2
    exact BitVec.extractLsb'_append_eq_right
  case compPA q | compPB q | compPC q =>
    congr 2
    exact extractLsb'_append_append_middle 0#16 q 0#20
  case compTPA t q | compTPB t q | compTPC t q =>
    congr 2
    · exact BitVec.extractLsb'_append_eq_right
    · exact extractLsb'_append_append_middle 0#16 q t

/-- Settles O1: the encoded word names its command, and no command sets a reserved bit. -/
theorem decodeOfEncodeIsIdentity : Obligations.DecodeOfEncodeIsIdentity := by
  intro p i hwf
  obtain ⟨-, hreserved⟩ := Laws.Encoding.of_operandArea (Laws.Encoding.operandArea_reserved i)
  exact (decode_eq_ok_iff p (encode i) i).mpr ⟨candidate_encode i, hwf, hreserved⟩

/-- A word names a command with its own opcode (R99). -/
theorem opcode_of_candidate {w : CmdWord} {i : Instr} (h : candidate w = some i) : i.opcode = opcodeOf w := by
  apply BitVec.eq_of_toNat_eq
  unfold candidate at h
  split at h <;> cases h
  all_goals next hopc => exact hopc.symm

/-- A word names a command with its own operand bits (R91–R97, R102). -/
theorem operandArea_of_candidate {w : CmdWord} {i : Instr} (h : candidate w = some i) {k : ℕ} (hk : k < 56)
    (hfree : Reference.reservedPosition i.format k = false) : i.operandArea.getLsbD k = w.getLsbD k := by
  unfold candidate at h
  split at h <;> cases h <;>
    simp only [Instr.operandArea, Instr.format, Reference.reservedPosition, adcTOf, adcPOf,
      bitsOfFields_fieldsOfBits] at hfree ⊢ <;>
    grind

/-- A word with no reserved bit of a format set has 0 at each of the format's reserved positions (R100). -/
theorem getLsbD_eq_false_of_reserved {w : CmdWord} {f : Format} (h : w &&& reservedMask f = 0#64) {k : ℕ}
    (hk : k < 64) (hpos : Reference.reservedPosition f k = true) : w.getLsbD k = false := by
  simpa [reservedMask_getLsbD f k hk, hpos] using congrArg (·.getLsbD k) h

/-- The bits of a word above its operand area are its opcode (R90). -/
theorem opcodeOf_getLsbD_sub {w : CmdWord} {k : ℕ} (hk : k < 64) (hk56 : ¬ k < 56) :
    (opcodeOf w).getLsbD (k - 56) = w.getLsbD k := by
  rw [opcodeOf, BitVec.getLsbD_extractLsb', Nat.add_sub_cancel' (Nat.le_of_not_lt hk56),
    decide_eq_true (by omega : k - 56 < 8), Bool.true_and]

/-- A word that names a command and has no reserved bit set is the command's word, bit by bit: the opcode, the operand
bits, and 0 in the reserved positions. -/
theorem encode_of_candidate {w : CmdWord} {i : Instr} (h : candidate w = some i)
    (hreserved : w &&& reservedMask i.format = 0#64) : encode i = w := by
  apply BitVec.eq_of_getLsbD_eq
  intro k hk
  rw [encode, BitVec.getLsbD_append]
  by_cases hk56 : k < 56
  · rw [if_pos hk56]
    cases hpos : Reference.reservedPosition i.format k with
    | false => exact operandArea_of_candidate h hk56 hpos
    | true => rw [Laws.Encoding.operandArea_reserved i k hk56 hpos, getLsbD_eq_false_of_reserved hreserved hk hpos]
  · rw [if_neg hk56, opcode_of_candidate h, opcodeOf_getLsbD_sub hk hk56]

/-- Settles O2: what a successful decoding says (`decode_eq_ok_iff`) makes the word the command's. -/
theorem encodeOfDecodeIsIdentity : Obligations.EncodeOfDecodeIsIdentity := by
  intro p w i h
  obtain ⟨hcand, hwf, hreserved⟩ := (decode_eq_ok_iff p w i).mp h
  exact ⟨hwf, encode_of_candidate hcand hreserved⟩

/-! ### The mask and match rows (R99, R100) -/

/-- The opcode of masked bits is the masked opcode. -/
theorem opcodeOf_and (w v : CmdWord) : opcodeOf (w &&& v) = opcodeOf w &&& opcodeOf v := BitVec.extractLsb'_and

/-- The opcode shifted to its place comes back from there. -/
theorem opcodeOf_shiftLeft (opc : BitVec 8) : opcodeOf (opc.setWidth 64 <<< 56) = opc := by
  ext k hk
  simp only [opcodeOf]
  grind

/-- A word without its operand area is its opcode in its place (R90). -/
theorem and_opcodeMask (w : CmdWord) : w &&& 0xFF00000000000000#64 = (opcodeOf w).setWidth 64 <<< 56 := by
  have hmask : ∀ k < 64, (0xFF00000000000000#64).getLsbD k = !decide (k < 56) := by decide
  apply BitVec.eq_of_getLsbD_eq
  intro k hk
  rw [BitVec.getLsbD_and, hmask k hk, BitVec.getLsbD_shiftLeft, BitVec.getLsbD_setWidth]
  by_cases hk56 : k < 56
  · simp [hk56]
  · rw [opcodeOf_getLsbD_sub hk hk56]
    simp [hk, hk56, (by omega : k - 56 < 64)]

/-- A word's masked bits are the match of a row exactly when it has the row's opcode and no reserved bit of the row's
format: the mask is the opcode's bits and the reserved bits, which are disjoint. -/
theorem and_mask_eq_matchBits_iff (w : CmdWord) (opc : BitVec 8) (f : Format) :
    w &&& (tableRow opc f).mask = (tableRow opc f).matchBits ↔ opcodeOf w = opc ∧ w &&& reservedMask f = 0#64 := by
  change w &&& (0xFF00000000000000#64 ||| reservedMask f) = opc.setWidth 64 <<< 56 ↔ _
  constructor
  · intro h
    have hopcodePart : opcodeOf (0xFF00000000000000#64 ||| reservedMask f) = BitVec.allOnes 8 := by
      cases f <;> decide
    have hopc : opcodeOf w = opc := by
      rw [← opcodeOf_shiftLeft opc, ← h, opcodeOf_and, hopcodePart, BitVec.and_allOnes]
    have hreservedPart : (0xFF00000000000000#64 ||| reservedMask f) &&& reservedMask f = reservedMask f := by
      cases f <;> decide
    have hdisjoint : 0xFF00000000000000#64 &&& reservedMask f = 0#64 := by cases f <;> decide
    refine ⟨hopc, ?_⟩
    calc w &&& reservedMask f
      _ = w &&& (0xFF00000000000000#64 ||| reservedMask f) &&& reservedMask f := by
          rw [BitVec.and_assoc, hreservedPart]
      _ = w &&& 0xFF00000000000000#64 &&& reservedMask f := by rw [h, ← hopc, and_opcodeMask]
      _ = 0#64 := by rw [BitVec.and_assoc, hdisjoint, BitVec.and_zero]
  · rintro ⟨rfl, hreserved⟩
    rw [BitVec.and_or_distrib_left, hreserved, BitVec.or_zero, and_opcodeMask]

/-- The row of a command, in the columns of the opcode table: opcode, match, mask. -/
def rowOf (i : Instr) : BitVec 8 × CmdWord × CmdWord :=
  (i.opcode, (tableRow i.opcode i.format).matchBits, (tableRow i.opcode i.format).mask)

/-- One command of each form, in the order of the table. -/
def oneOfEach : List Instr :=
  [.reset, .loadCalib, .applyConfig defaultConfig, .readStatus, .readRaw, .readChipId, .encodeConfig defaultConfig,
    .decodeConfig 0 0, .decodeStatus 0, .compTA 0, .compTB 0, .compTC 0, .compPA 0, .compPB 0, .compPC 0,
    .compTPA 0 0, .compTPB 0 0, .compTPC 0 0]

/-- The table is the rows of the commands, one for each form. -/
theorem opcodeTable_eq_map_rowOf : Reference.opcodeTable = oneOfEach.map rowOf := by decide

/-- Every command has its row in the table. -/
theorem rowOf_mem_opcodeTable (i : Instr) : rowOf i ∈ Reference.opcodeTable := by
  cases i <;> simp [opcodeTable_eq_map_rowOf, oneOfEach, rowOf, Instr.opcode, Instr.format]

/-- A word with the opcode of a command names a command of the same form. -/
theorem candidate_of_opcodeOf_eq {w : CmdWord} {i : Instr} (h : opcodeOf w = i.opcode) :
    ∃ j, candidate w = some j ∧ j.opcode = i.opcode ∧ j.format = i.format := by
  unfold candidate
  rw [h]
  cases i <;> exact ⟨_, rfl, rfl, rfl⟩

/-- The default build has every command (R6). -/
theorem wellFormed_all (i : Instr) : i.wellFormed .all = true := by
  cases i <;> rfl

/-- In the default build, a word matches the row of a command exactly when it decodes to a command with that opcode. -/
theorem matches_rowOf_iff (i : Instr) (w : CmdWord) :
    w &&& (rowOf i).2.2 = (rowOf i).2.1 ↔ ∃ j, decode .all w = .ok j ∧ j.opcode = i.opcode := by
  refine (and_mask_eq_matchBits_iff w i.opcode i.format).trans ⟨?_, ?_⟩
  · rintro ⟨hopc, hreserved⟩
    obtain ⟨j, hcand, hopcode, hformat⟩ := candidate_of_opcodeOf_eq hopc
    exact ⟨j, (decode_eq_ok_iff _ _ _).mpr ⟨hcand, wellFormed_all j, hformat ▸ hreserved⟩, hopcode⟩
  · rintro ⟨j, hdecode, hopcode⟩
    obtain ⟨hcand, -, hreserved⟩ := (decode_eq_ok_iff _ _ _).mp hdecode
    have hopc : opcodeOf w = i.opcode := (opcode_of_candidate hcand).symm.trans hopcode
    obtain ⟨k, hcand', -, hformat⟩ := candidate_of_opcodeOf_eq hopc
    obtain rfl : j = k := Option.some.inj (hcand.symm.trans hcand')
    exact ⟨hopc, hformat ▸ hreserved⟩

/-- Settles O3: the rows of the table are those of the commands, and a word that decodes matches its command's row. -/
theorem wordsSelectCommandsByMaskAndMatch : Obligations.WordsSelectCommandsByMaskAndMatch := by
  refine ⟨fun r w hr => ?_, fun w hnone => ?_⟩
  · rw [opcodeTable_eq_map_rowOf] at hr
    obtain ⟨i, -, rfl⟩ := List.mem_map.mp hr
    exact matches_rowOf_iff i w
  · cases hdecode : decode StrategySet.all w with
    | error e => exact ⟨e, rfl⟩
    | ok i => exact absurd ((matches_rowOf_iff i w).mpr ⟨i, hdecode, rfl⟩) (hnone _ (rowOf_mem_opcodeTable i))

/-! ### The assembler (R104, R105) -/

/-- A number is taken where it fits its field, and then it is the field's value. -/
theorem exists_fitField_of_lt {w n : ℕ} (h : n < 2 ^ w) : ∃ x : BitVec w, fitField w n = some x ∧ x.toNat = n :=
  ⟨BitVec.ofNat w n, if_pos h, Nat.mod_eq_of_lt h⟩

/-- A number that does not fit its field is refused. -/
theorem fitField_of_not_lt {w n : ℕ} (h : ¬ n < 2 ^ w) : fitField w n = none := if_neg h

/-- A number that a field takes fits it. -/
theorem lt_of_fitField_eq_some {w n : ℕ} {x : BitVec w} (h : fitField w n = some x) : n < 2 ^ w := by
  by_contra hlt
  simp [fitField_of_not_lt hlt] at h

/-- Six operands are taken where each fits its field, and then they are the six fields. -/
theorem exists_fitConfig_of_fit {a b c d e f : ℕ} (h : a < 8 ∧ b < 8 ∧ c < 4 ∧ d < 8 ∧ e < 8 ∧ f < 2) :
    ∃ g, fitConfig a b c d e f = some g ∧ g.osT.toNat = a ∧ g.osP.toNat = b ∧ g.mode.toNat = c ∧ g.odr.toNat = d ∧
      g.filter.toNat = e ∧ g.spi3w.toNat = f := by
  obtain ⟨ha, hb, hc, hd, he, hf⟩ := h
  obtain ⟨osT, hosT, hosT'⟩ := exists_fitField_of_lt (w := 3) ha
  obtain ⟨osP, hosP, hosP'⟩ := exists_fitField_of_lt (w := 3) hb
  obtain ⟨mode, hmode, hmode'⟩ := exists_fitField_of_lt (w := 2) hc
  obtain ⟨odr, hodr, hodr'⟩ := exists_fitField_of_lt (w := 3) hd
  obtain ⟨filter, hfilter, hfilter'⟩ := exists_fitField_of_lt (w := 3) he
  obtain ⟨spi3w, hspi3w, hspi3w'⟩ := exists_fitField_of_lt (w := 1) hf
  exact ⟨⟨osT, osP, mode, odr, filter, spi3w⟩, by simp only [fitConfig, hosT, hosP, hmode, hodr, hfilter, hspi3w],
    hosT', hosP', hmode', hodr', hfilter', hspi3w'⟩

/-- Six operands of which one does not fit its field are refused. -/
theorem fitConfig_of_not_fit {a b c d e f : ℕ} (h : ¬ (a < 8 ∧ b < 8 ∧ c < 4 ∧ d < 8 ∧ e < 8 ∧ f < 2)) :
    fitConfig a b c d e f = none := by
  unfold fitConfig
  split
  next hosT hosP hmode hodr hfilter hspi3w =>
    exact absurd ⟨lt_of_fitField_eq_some hosT, lt_of_fitField_eq_some hosP, lt_of_fitField_eq_some hmode,
      lt_of_fitField_eq_some hodr, lt_of_fitField_eq_some hfilter, lt_of_fitField_eq_some hspi3w⟩ h
  next => rfl

/-- Settles O56: each form by whether its numbers fit their fields. -/
theorem assemblerAcceptsExactlyWhatFits : Obligations.AssemblerAcceptsExactlyWhatFits := by
  refine ⟨fun a b c d e f => ?config, fun a b => ?deccfg, fun a => ?decstat, fun a => ?compensate,
    fun a b => ?comptp, rfl, rfl, rfl, rfl, rfl, by decide, by decide⟩
  case config =>
    split
    next hfit =>
      obtain ⟨g, hg, hvalues⟩ := exists_fitConfig_of_fit hfit
      exact ⟨g, by simp [assemble, hg], by simp [assemble, hg], hvalues⟩
    next hfit => simp [assemble, fitConfig_of_not_fit hfit]
  case deccfg =>
    split
    next hfit =>
      obtain ⟨ha, hb⟩ := hfit
      obtain ⟨x, hx, hxa⟩ := exists_fitField_of_lt (w := 8) ha
      obtain ⟨y, hy, hyb⟩ := exists_fitField_of_lt (w := 8) hb
      exact ⟨x, y, by simp [assemble, hx, hy], hxa, hyb⟩
    next hfit =>
      obtain ha | hb := not_and_or.mp hfit
      · simp [assemble, fitField_of_not_lt (w := 8) ha]
      · simp [assemble, fitField_of_not_lt (w := 8) hb]
  case decstat =>
    split
    next hfit =>
      obtain ⟨x, hx, hxa⟩ := exists_fitField_of_lt (w := 8) hfit
      exact ⟨x, by simp [assemble, hx], hxa⟩
    next hfit => simp [assemble, fitField_of_not_lt (w := 8) hfit]
  case compensate =>
    split
    next hfit =>
      obtain ⟨x, hx, hxa⟩ := exists_fitField_of_lt hfit
      exact ⟨x, hxa, by simp [assemble, hx, compTOf, compPOf]⟩
    next hfit => simp [assemble, fitField_of_not_lt hfit]
  case comptp =>
    split
    next hfit =>
      obtain ⟨ha, hb⟩ := hfit
      obtain ⟨x, hx, hxa⟩ := exists_fitField_of_lt ha
      obtain ⟨y, hy, hyb⟩ := exists_fitField_of_lt hb
      exact ⟨x, y, hxa, hyb, by simp [assemble, hx, hy, compTPOf]⟩
    next hfit =>
      obtain ha | hb := not_and_or.mp hfit
      · simp [assemble, fitField_of_not_lt ha]
      · simp [assemble, fitField_of_not_lt hb]

/-! ### DECODE_CONFIG, and the words of the spec (R122, 95_test_vectors.md) -/

/-- Settles O26: the fields come back from the layout. -/
theorem decodeConfigUnpacksTheTwoBytes : Obligations.DecodeConfigUnpacksTheTwoBytes := by
  intro cfg ctrl s
  have hfields := fieldsOfBits_bitsOfFields (unpackConfig cfg ctrl)
  exact ⟨_, rfl, congrArg (·.osT) hfields, congrArg (·.osP) hfields, congrArg (·.mode) hfields,
    congrArg (·.odr) hfields, congrArg (·.filter) hfields, congrArg (·.spi3w) hfields⟩

/-- Settles O5, by running the decoder on the words. -/
theorem specWordsDecodeAsWritten : Obligations.SpecWordsDecodeAsWritten := by
  unfold Obligations.SpecWordsDecodeAsWritten
  decide

end Sys2Proof.Machine

/-! ## Proofs: the register codec (40_codec.md). The status flags from their bits, and the two round trips of the
configuration codec. -/

namespace Sys2Proof.Machine

/-! ### The status flags (R123, R126) -/

/-- Settles O27: the flags are bits 3 and 0 of the byte. -/
theorem decodeStatusWritesTheTwoFlags : Obligations.DecodeStatusWritesTheTwoFlags := by
  intro sb s
  rw [exec_of_ready (i := .decodeStatus sb) rfl, ← statusMeasuring_eq_decide, ← statusImUpdate_eq_decide]
  rfl

/-- Two written registers are the same exactly when their values are. -/
theorem reg_of_inj_iff {α : Type} {v w : α} : Reg.of v = Reg.of w ↔ v = w := by
  simp [Reg.of]

/-- Settles O29: each flag holds its own bit of the byte, and nothing of the state before. -/
theorem statusFlagsAreIndependent : Obligations.StatusFlagsAreIndependent := by
  intro sb sb' s s'
  refine ⟨writeStatusFlags sb s, writeStatusFlags sb' s', exec_of_ready (i := .decodeStatus sb) rfl,
    exec_of_ready (i := .decodeStatus sb') rfl, ?measuring, ?imUpdate, ?measuringSet, ?imUpdateSet⟩
  case measuring => exact reg_of_inj_iff
  case imUpdate => exact reg_of_inj_iff
  case measuringSet => exact congrArg Reg.of
  case imUpdateSet => exact congrArg Reg.of

/-! ### The configuration codec (R121, R122, R124, R125) -/

/-- Packing what was unpacked gives the `config` byte with bit 1 cleared, which no field holds (R49, R125). -/
theorem configByte_unpackConfig (cfg ctrl : Byte) :
    Reference.configByte (unpackConfig cfg ctrl) = cfg &&& 0xFD#8 := by
  ext k hk
  have hmask : (0xFD#8)[k] = decide (k ≠ 1) := by
    revert k
    decide
  rw [BitVec.getElem_and, hmask]
  simp only [Reference.configByte, unpackConfig]
  grind

/-- Packing what was unpacked gives the `ctrl_meas` byte, all of whose bits are field bits (R48, R125). -/
theorem ctrlMeasByte_unpackConfig (cfg ctrl : Byte) : Reference.ctrlMeasByte (unpackConfig cfg ctrl) = ctrl := by
  ext k hk
  simp only [Reference.ctrlMeasByte, unpackConfig]
  grind

/-- Settles O28: the bytes hold every field, and the fields hold every bit of the bytes but bit 1 of `config`. -/
theorem configurationCodecRoundTrips : Obligations.ConfigurationCodecRoundTrips := by
  constructor
  case left =>
    intro v s
    refine ⟨_, _, encodeConfigPacksTheTwoBytes (fieldsOfBits v) s, rfl, ?_⟩
    exact congrArg Reg.of ((congrArg bitsOfFields (unpackConfig_bytes _)).trans (bitsOfFields_fieldsOfBits v))
  case right =>
    intro c m s
    have hfields : fieldsOfBits (bitsOfFields (unpackConfig c m)) = unpackConfig c m := fieldsOfBits_bitsOfFields _
    refine ⟨_, _, rfl, encodeConfigPacksTheTwoBytes _ _, ?config, ?ctrlMeas⟩
    case config => exact congrArg Reg.of ((congrArg Reference.configByte hfields).trans (configByte_unpackConfig c m))
    case ctrlMeas =>
      exact congrArg Reg.of ((congrArg Reference.ctrlMeasByte hfields).trans (ctrlMeasByte_unpackConfig c m))

end Sys2Proof.Machine

/-! ## Proofs: calibration and the sequencer (41_calibration_and_sequencer.md). A failed precondition, how the commands
move PHASE, RESET, and a configuration applied a second time. -/

namespace Sys2Proof.Machine

/-! ### A failed precondition, and how PHASE moves (R140, R221) -/

/-- Settles O9: a command checks exactly its row of R221. -/
theorem failedPreconditionRecordsPrecond : Obligations.FailedPreconditionRecordsPrecond := by
  intro i s hpre
  have hready : execReady i s = false :=
    Bool.eq_false_iff.mpr fun hready => hpre ((execReady_iff_precondition i s).mp hready)
  exact exec_of_not_ready hready

/-- `PHASE` after READ_RAW, as R147 says it. -/
theorem phaseAfterRaw_eq_ite (p : Phase) :
    phaseAfterRaw p = if p = .configured then .sampling else p := by
  cases p <;> rfl

/-- The effect of a command moves `PHASE` as the table of R140 says. -/
theorem execEffect_phase (i : Instr) (s : State) :
    (execEffect i s).phase = Reference.phaseAfter i s.phase := by
  cases i with
  | applyConfig f => exact phaseAfterApply_eq_ite s.phase
  | readRaw => exact phaseAfterRaw_eq_ite s.phase
  | _ => rfl

/-- Settles O22: a command that runs moves `PHASE` by the table and leaves `FAULT`; one that does not run only faults
(O9). -/
theorem phaseMovesAsTheTableSays : Obligations.PhaseMovesAsTheTableSays := by
  intro i s
  refine ⟨fun hpre => ?runs, failedPreconditionRecordsPrecond i s⟩
  case runs =>
    have hready : execReady i s = true := (execReady_iff_precondition i s).mpr hpre
    exact ⟨_, exec_of_ready hready, execEffect_phase i s, execEffect_fault i s⟩

/-! ### RESET, and APPLY_CONFIG a second time (R141, R144, R145) -/

/-- Settles O30: RESET has no precondition, and its effect is the rule's. -/
theorem resetReturnsToUninitAndKeepsTheRest : Obligations.ResetReturnsToUninitAndKeepsTheRest :=
  fun _ => exec_of_ready (i := .reset) rfl

/-- A second APPLY_CONFIG finds the phase where the first one left it (R144). -/
theorem phaseAfterApply_idempotent (p : Phase) : phaseAfterApply (phaseAfterApply p) = phaseAfterApply p := by
  cases p <;> rfl

/-- All that the same APPLY_CONFIG writes a second time stands there already, and only the trace grows (R145). -/
theorem applyConfiguration_applyConfiguration (f : ConfigFields) (s : State) :
    applyConfiguration f (applyConfiguration f s) = { applyConfiguration f s with
      busTrace := (applyConfiguration f s).busTrace ++ transactions (.applyConfig f) s } := by
  simp [applyConfiguration, writeEncoded, busWrite, transactions, phaseAfterApply_idempotent]

/-- Settles O35: the first APPLY_CONFIG leaves a phase in which the second one runs, and the second one's effect only
repeats the two writes. -/
theorem reapplyingAConfigurationOnlyRepeatsTheWrites :
    Obligations.ReapplyingAConfigurationOnlyRepeatsTheWrites := by
  intro f s hphase
  have hready : calReady s = true := calReady_of_rawReady ((rawReady_iff s).mpr hphase)
  have hagain : calReady (applyConfiguration f s) = true := calReady_of_rawReady (rawReady_applyConfiguration hready f)
  refine ⟨applyConfiguration f s, transactions (.applyConfig f) s, exec_of_ready (i := .applyConfig f) hready,
    execEffect_busTrace (.applyConfig f) s, rfl, ?_⟩
  calc exec (.applyConfig f) (applyConfiguration f s)
      = .next (applyConfiguration f (applyConfiguration f s)) := exec_of_ready (i := .applyConfig f) hagain
    _ = _ := congrArg _ (applyConfiguration_applyConfiguration f s)

end Sys2Proof.Machine

/-! ## Proofs: compensation (42_compensation.md). The binary64 operations round the exact result once, rounding stays
within representable bounds, and what the compensation commands answer. -/

namespace Sys2Proof.Machine

/-! ### The fields of a bit pattern, and its sign (R10, R175) -/

section Binary64

open Sys2Proof.Reference

/-- A finite number is zero or subnormal where its exponent field is 0, and normal where the field is below 2047. -/
theorem f64Unpack_eq_fin_iff {x : F64} {neg : Bool} {m : ℕ} {e : ℤ} :
    f64Unpack x = .fin neg m e ↔ x.getLsbD 63 = neg ∧
      ((x.extractLsb' 52 11).toNat = 0 ∧ (x.extractLsb' 0 52).toNat = m ∧ e = -1074 ∨
        0 < (x.extractLsb' 52 11).toNat ∧ (x.extractLsb' 52 11).toNat < 2047 ∧
          2 ^ 52 + (x.extractLsb' 0 52).toNat = m ∧ e = (x.extractLsb' 52 11).toNat - 1075) := by
  have hexpo := (x.extractLsb' 52 11).isLt
  unfold f64Unpack
  generalize (x.extractLsb' 52 11).toNat = expo at *
  generalize (x.extractLsb' 0 52).toNat = frac
  dsimp only
  split_ifs with hspecial hinf hsub
  · exact iff_of_false nofun (by omega)
  · exact iff_of_false nofun (by omega)
  · rw [FloatVal.fin.injEq]
    exact and_congr_right fun _ => by omega
  · rw [FloatVal.fin.injEq]
    exact and_congr_right fun _ => by omega

theorem getLsbD_63_of_unpack {x : F64} {neg : Bool} {m : ℕ} {e : ℤ} (h : f64Unpack x = .fin neg m e) :
    x.getLsbD 63 = neg := (f64Unpack_eq_fin_iff.mp h).1

theorem getLsbD_63_f64Neg (x : F64) : (f64Neg x).getLsbD 63 = !x.getLsbD 63 := by simp [f64Neg]

/-- `-x` has the magnitude of `x`. -/
theorem f64Unpack_f64Neg {x : F64} {neg : Bool} {m : ℕ} {e : ℤ} (h : f64Unpack x = .fin neg m e) :
    f64Unpack (f64Neg x) = .fin (!neg) m e := by
  have hexpo : (f64Neg x).extractLsb' 52 11 = x.extractLsb' 52 11 := by simp [f64Neg, BitVec.extractLsb'_xor]
  have hfrac : (f64Neg x).extractLsb' 0 52 = x.extractLsb' 0 52 := by simp [f64Neg, BitVec.extractLsb'_xor]
  obtain ⟨hsign, hfields⟩ := f64Unpack_eq_fin_iff.mp h
  exact f64Unpack_eq_fin_iff.mpr ⟨by rw [getLsbD_63_f64Neg, hsign], by rwa [hexpo, hfrac]⟩

theorem f64Value_f64Neg {x : F64} {v : ℚ} (h : f64Value x = some v) : f64Value (f64Neg x) = some (-v) := by
  obtain ⟨neg, m, e, hx, rfl⟩ := f64Unpack_of_value h
  rw [f64Value_of_unpack (f64Unpack_f64Neg hx)]
  cases neg <;> simp [signFactor]

/-- A finite number is 0 exactly when its integer part is. -/
theorem signFactor_mul_zpow_eq_zero_iff {neg : Bool} {m : ℕ} {e : ℤ} :
    signFactor neg * m * (2 : ℚ) ^ e = 0 ↔ m = 0 := by
  have hsign : signFactor neg ≠ 0 := by cases neg <;> simp [signFactor]
  simp [hsign, zpow_ne_zero]

theorem f64IsZero_iff_unpack {x : F64} : f64IsZero x = true ↔ ∃ neg e, f64Unpack x = .fin neg 0 e := by
  unfold f64IsZero
  cases f64Unpack x <;> simp

/-- A pattern with the value 0 is a zero of one of the signs. -/
theorem f64IsZero_of_value {x : F64} (h : f64Value x = some 0) : f64IsZero x = true := by
  obtain ⟨neg, m, e, hx, hv⟩ := f64Unpack_of_value h
  rw [signFactor_mul_zpow_eq_zero_iff.mp hv.symm] at hx
  exact f64IsZero_iff_unpack.mpr ⟨neg, e, hx⟩

/-- The zeros are the patterns +0.0 and -0.0 (R180). -/
theorem f64IsZero_iff (x : F64) : f64IsZero x = true ↔ x = 0#64 ∨ x = 0x8000000000000000#64 := by
  constructor
  · intro h
    obtain ⟨neg, e, hx⟩ := f64IsZero_iff_unpack.mp h
    obtain ⟨-, ⟨hexpo, hfrac, -⟩ | ⟨-, -, hnormal, -⟩⟩ := f64Unpack_eq_fin_iff.mp hx
    · rw [BitVec.extractLsb'_toNat, Nat.shiftRight_eq_div_pow] at hexpo hfrac
      bv_omega
    · omega
  · rintro (rfl | rfl) <;> decide

/-! ### Rounding once: sums, differences, products and quotients (R175) -/

/-- A rounded number has the sign it is given, whatever its magnitude. -/
theorem getLsbD_63_f64Round (neg : Bool) (n d : ℕ) (e : ℤ) : (f64Round neg n d e).getLsbD 63 = neg := by
  refine f64OfMagnitude_sign neg (bits := roundMagnitude n d e) ?_
  unfold roundMagnitude
  split_ifs
  · norm_num
  · exact (min_le_right _ _).trans_lt (by norm_num [f64InfBits])

/-- `f64Round` rounds every number to nearest, zero included. -/
theorem f64Round_correct_of_nonneg (neg : Bool) (n : ℕ) {d : ℕ} (e : ℤ) (hd : 0 < d) :
    CorrectlyRounded (signFactor neg * ((n : ℚ) / d * 2 ^ e)) (f64Round neg n d e) := by
  obtain rfl | hn := n.eq_zero_or_pos
  · have hzero : f64Round neg 0 d e = f64Zero neg := rfl
    simpa [hzero] using f64Zero_correct neg
  · exact f64Round_correct neg e hn hd

theorem signedMant_cast (neg : Bool) (m : ℕ) : ((signedMant neg m : ℤ) : ℚ) = signFactor neg * m := by
  cases neg <;> simp [signedMant, signFactor]

/-- The exact sum of two finite numbers, in units of the smaller of their last places. -/
def alignedSum (na : Bool) (ma : ℕ) (ea : ℤ) (nb : Bool) (mb : ℕ) (eb : ℤ) : ℤ :=
  signedMant na ma * 2 ^ (ea - min ea eb).toNat + signedMant nb mb * 2 ^ (eb - min ea eb).toNat

theorem f64AddFin_eq (na : Bool) (ma : ℕ) (ea : ℤ) (nb : Bool) (mb : ℕ) (eb : ℤ) :
    f64AddFin na ma ea nb mb eb =
      if alignedSum na ma ea nb mb eb = 0 then f64Zero (na && nb)
      else f64Round (decide (alignedSum na ma ea nb mb eb < 0)) (alignedSum na ma ea nb mb eb).natAbs 1
        (min ea eb) := rfl

theorem two_pow_toNat_mul_zpow {e f : ℤ} (h : f ≤ e) : (2 : ℚ) ^ (e - f).toNat * 2 ^ f = 2 ^ e := by
  rw [← zpow_natCast, ← zpow_add₀ two_ne_zero]
  congr 1
  omega

theorem alignedSum_mul_zpow (na : Bool) (ma : ℕ) (ea : ℤ) (nb : Bool) (mb : ℕ) (eb : ℤ) :
    (alignedSum na ma ea nb mb eb : ℚ) * 2 ^ min ea eb =
      signFactor na * ma * 2 ^ ea + signFactor nb * mb * 2 ^ eb := by
  have ha := two_pow_toNat_mul_zpow (min_le_left ea eb)
  have hb := two_pow_toNat_mul_zpow (min_le_right ea eb)
  unfold alignedSum
  push_cast [signedMant_cast]
  rw [add_mul, mul_assoc _ _ ((2 : ℚ) ^ min ea eb), ha, mul_assoc _ _ ((2 : ℚ) ^ min ea eb), hb]

theorem f64AddFin_correct (na : Bool) (ma : ℕ) (ea : ℤ) (nb : Bool) (mb : ℕ) (eb : ℤ) :
    CorrectlyRounded (signFactor na * ma * 2 ^ ea + signFactor nb * mb * 2 ^ eb)
      (f64AddFin na ma ea nb mb eb) := by
  rw [← alignedSum_mul_zpow, f64AddFin_eq]
  split_ifs with hzero
  · simpa [hzero] using f64Zero_correct (na && nb)
  · rw [← signFactor_mul_natAbs, mul_assoc]
    simpa only [Nat.cast_one, div_one] using f64Round_correct_of_nonneg _ _ (min ea eb) one_pos

section Unpacked

variable {x y : F64} {na nb : Bool} {ma mb : ℕ} {ea eb : ℤ}

theorem f64Add_of_unpack (hx : f64Unpack x = .fin na ma ea) (hy : f64Unpack y = .fin nb mb eb) :
    f64Add x y = f64AddFin na ma ea nb mb eb := by
  rw [f64Add, hx, hy]

theorem f64Mul_of_unpack (hx : f64Unpack x = .fin na ma ea) (hy : f64Unpack y = .fin nb mb eb) :
    f64Mul x y = f64Round (na != nb) (ma * mb) 1 (ea + eb) := by
  rw [f64Mul, hx, hy]

theorem f64Div_of_unpack (hx : f64Unpack x = .fin na ma ea) (hy : f64Unpack y = .fin nb mb eb) (hmb : mb ≠ 0) :
    f64Div x y = f64Round (na != nb) ma mb (ea - eb) := by
  rw [f64Div, hx, hy]
  exact if_neg hmb

end Unpacked

theorem signFactor_bne (a b : Bool) : signFactor (a != b) = signFactor a * signFactor b := by
  cases a <;> cases b <;> simp [signFactor]

section Values

variable {x y : F64} {v w : ℚ}

theorem f64Add_correct (hx : f64Value x = some v) (hy : f64Value y = some w) :
    CorrectlyRounded (v + w) (f64Add x y) := by
  obtain ⟨na, ma, ea, hux, rfl⟩ := f64Unpack_of_value hx
  obtain ⟨nb, mb, eb, huy, rfl⟩ := f64Unpack_of_value hy
  rw [f64Add_of_unpack hux huy]
  exact f64AddFin_correct na ma ea nb mb eb

theorem f64Sub_correct (hx : f64Value x = some v) (hy : f64Value y = some w) :
    CorrectlyRounded (v - w) (f64Sub x y) := by
  rw [sub_eq_add_neg]
  exact f64Add_correct hx (f64Value_f64Neg hy)

theorem f64Mul_correct (hx : f64Value x = some v) (hy : f64Value y = some w) :
    CorrectlyRounded (v * w) (f64Mul x y) := by
  obtain ⟨na, ma, ea, hux, rfl⟩ := f64Unpack_of_value hx
  obtain ⟨nb, mb, eb, huy, rfl⟩ := f64Unpack_of_value hy
  have hexact : signFactor na * ma * 2 ^ ea * (signFactor nb * mb * 2 ^ eb) =
      signFactor (na != nb) * (((ma * mb : ℕ) : ℚ) / (1 : ℕ) * 2 ^ (ea + eb)) := by
    rw [signFactor_bne, zpow_add₀ two_ne_zero]
    push_cast
    ring
  rw [f64Mul_of_unpack hux huy, hexact]
  exact f64Round_correct_of_nonneg _ _ _ one_pos

theorem f64Div_correct (hx : f64Value x = some v) (hy : f64Value y = some w) (hw : w ≠ 0) :
    CorrectlyRounded (v / w) (f64Div x y) := by
  obtain ⟨na, ma, ea, hux, rfl⟩ := f64Unpack_of_value hx
  obtain ⟨nb, mb, eb, huy, rfl⟩ := f64Unpack_of_value hy
  have hmb : mb ≠ 0 := mt signFactor_mul_zpow_eq_zero_iff.mpr hw
  have hinv : (signFactor nb)⁻¹ = signFactor nb := inv_eq_of_mul_eq_one_left (signFactor_mul_self nb)
  have hexact : signFactor na * ma * 2 ^ ea / (signFactor nb * mb * 2 ^ eb) =
      signFactor (na != nb) * ((ma : ℚ) / mb * 2 ^ (ea - eb)) := by
    rw [signFactor_bne, zpow_sub₀ two_ne_zero, mul_assoc (signFactor nb), div_mul_eq_div_div,
      div_eq_mul_inv _ (signFactor nb), hinv]
    ring
  rw [f64Div_of_unpack hux huy hmb, hexact]
  exact f64Round_correct_of_nonneg _ _ _ (Nat.pos_of_ne_zero hmb)

/-! ### The signs of zeros, products and quotients (R175) -/

theorem f64Add_of_add_eq_zero (hx : f64Value x = some v) (hy : f64Value y = some w) (hsum : v + w = 0) :
    f64Add x y = f64Zero (x.getLsbD 63 && y.getLsbD 63) := by
  obtain ⟨na, ma, ea, hux, rfl⟩ := f64Unpack_of_value hx
  obtain ⟨nb, mb, eb, huy, rfl⟩ := f64Unpack_of_value hy
  have hzero : alignedSum na ma ea nb mb eb = 0 := by
    rw [← alignedSum_mul_zpow] at hsum
    exact_mod_cast (mul_eq_zero.mp hsum).resolve_right (zpow_ne_zero _ two_ne_zero)
  rw [f64Add_of_unpack hux huy, f64AddFin_eq, if_pos hzero, getLsbD_63_of_unpack hux, getLsbD_63_of_unpack huy]

theorem f64Sub_of_sub_eq_zero (hx : f64Value x = some v) (hy : f64Value y = some w) (hdiff : v - w = 0) :
    f64Sub x y = f64Zero (x.getLsbD 63 && !y.getLsbD 63) := by
  rw [f64Sub, f64Add_of_add_eq_zero hx (f64Value_f64Neg hy) (by rwa [← sub_eq_add_neg]), getLsbD_63_f64Neg]

theorem getLsbD_63_f64Mul (hx : f64Value x = some v) (hy : f64Value y = some w) :
    (f64Mul x y).getLsbD 63 = (x.getLsbD 63 ^^ y.getLsbD 63) := by
  obtain ⟨na, ma, ea, hux, -⟩ := f64Unpack_of_value hx
  obtain ⟨nb, mb, eb, huy, -⟩ := f64Unpack_of_value hy
  rw [f64Mul_of_unpack hux huy, getLsbD_63_f64Round, getLsbD_63_of_unpack hux, getLsbD_63_of_unpack huy,
    Bool.bne_eq_xor]

theorem getLsbD_63_f64Div (hx : f64Value x = some v) (hy : f64Value y = some w) (hw : w ≠ 0) :
    (f64Div x y).getLsbD 63 = (x.getLsbD 63 ^^ y.getLsbD 63) := by
  obtain ⟨na, ma, ea, hux, -⟩ := f64Unpack_of_value hx
  obtain ⟨nb, mb, eb, huy, rfl⟩ := f64Unpack_of_value hy
  rw [f64Div_of_unpack hux huy (mt signFactor_mul_zpow_eq_zero_iff.mpr hw), getLsbD_63_f64Round,
    getLsbD_63_of_unpack hux, getLsbD_63_of_unpack huy, Bool.bne_eq_xor]

end Values

theorem f64Zero_and (a b : Bool) :
    f64Zero (a && b) = if a = true ∧ b = true then 0x8000000000000000#64 else 0#64 := by
  cases a <;> cases b <;> rfl

/-! ### Truncation to an integer (R175) -/

/-- The shifts of `truncFin` give the integer part of a magnitude. -/
theorem floor_natCast_mul_zpow (m : ℕ) (e : ℤ) :
    ⌊(m : ℚ) * 2 ^ e⌋ = ((m * 2 ^ e.toNat / 2 ^ (-e).toNat : ℕ) : ℤ) := by
  have hsplit : (2 : ℚ) ^ e * 2 ^ (-e).toNat = 2 ^ e.toNat := by
    rw [← zpow_natCast, ← zpow_natCast, ← zpow_add₀ two_ne_zero]
    congr 1
    omega
  have hfraction : (m : ℚ) * 2 ^ e = ((m * 2 ^ e.toNat : ℕ) : ℚ) / ((2 ^ (-e).toNat : ℕ) : ℚ) := by
    push_cast
    rw [eq_div_iff (by positivity), mul_assoc, hsplit]
  rw [hfraction]
  exact_mod_cast Rat.floor_natCast_div_natCast _ _

theorem truncFin_eq_integerPart (neg : Bool) (m : ℕ) (e : ℤ) {v : ℚ} (hv : signFactor neg * m * 2 ^ e = v) :
    truncFin neg m e = if 0 ≤ v then ⌊v⌋ else ⌈v⌉ := by
  have hfloor := floor_natCast_mul_zpow m e
  have hnonneg : 0 ≤ (m : ℚ) * 2 ^ e := by positivity
  rw [mul_assoc] at hv
  subst hv
  cases neg with
  | false => simpa [truncFin, signedMant, signFactor, hnonneg] using hfloor.symm
  | true =>
    have hceil : truncFin true m e = ⌈-((m : ℚ) * 2 ^ e)⌉ := by
      rw [Int.ceil_neg, hfloor]
      rfl
    simp only [signFactor, if_true, neg_one_mul]
    split_ifs with hsign
    · have hzero : (m : ℚ) * 2 ^ e = 0 := le_antisymm (by linarith) hnonneg
      simpa [hzero] using hceil
    · exact hceil

/-- Where the integer part fits in `i32`, `trunc_i32` is the integer part. -/
theorem truncI32_toInt {x : F64} {v : ℚ} (hx : f64Value x = some v) (hlo : -2147483649 < v) (hhi : v < 2147483648) :
    (truncI32 x).toInt = if 0 ≤ v then ⌊v⌋ else ⌈v⌉ := by
  obtain ⟨neg, m, e, hux, hv⟩ := f64Unpack_of_value hx
  have htrunc := truncFin_eq_integerPart neg m e hv.symm
  have hrange : -2147483648 ≤ truncFin neg m e ∧ truncFin neg m e < 2147483648 := by
    rw [htrunc]
    split_ifs with hsign
    · have hfloor : 0 ≤ ⌊v⌋ := Int.floor_nonneg.mpr hsign
      have hfloor' : ⌊v⌋ < 2147483648 := Int.floor_lt.mpr (by exact_mod_cast hhi)
      omega
    · have hceil : -2147483649 < ⌈v⌉ := Int.lt_ceil.mpr (by exact_mod_cast hlo)
      have hceil' : ⌈v⌉ ≤ 0 := Int.ceil_le.mpr (by exact_mod_cast (not_le.mp hsign).le)
      omega
  have hbits : truncI32 x = BitVec.ofInt 32 (truncFin neg m e) := by
    rw [truncI32, hux]
    exact if_pos hrange
  rw [hbits, BitVec.toInt_ofInt, Int.bmod_eq_of_le (by omega) (by omega), htrunc]

/-! ### Rounding stays within bounds that are themselves binary64 numbers -/

/-- The number is the value of some bit pattern. -/
def Representable (v : ℚ) : Prop := ∃ x, f64Value x = some v

theorem representable_intCast {n : ℤ} (h : |n| < 2 ^ 53) : Representable n := ⟨_, f64Value_f64OfInt h⟩

theorem representable_neg {v : ℚ} (h : Representable v) : Representable (-v) :=
  h.imp' _ fun _ => f64Value_f64Neg

theorem representable_two_pow {k : ℕ} (hk : k < 1024) : Representable (2 ^ k) := by
  have hbits : (k + 1022) * 2 ^ 52 + 2 ^ 52 < f64InfBits := by
    rw [f64InfBits]
    omega
  have hscale : ((2 ^ 52 : ℕ) : ℚ) * 2 ^ (((k + 1022 : ℕ) : ℤ) - 1074) = 2 ^ k := by
    rw [Nat.cast_pow, Nat.cast_ofNat, ← zpow_natCast, ← zpow_natCast, ← zpow_add₀ two_ne_zero]
    exact congrArg (fun q : ℤ => (2 : ℚ) ^ q) (by omega)
  have hvalue := f64Value_ofMagnitude false (by norm_num) (.inr le_rfl) hbits
  rw [signFactor, if_neg Bool.false_ne_true, one_mul, hscale] at hvalue
  exact ⟨_, hvalue⟩

/-- Every finite number lies below the overflow bound. -/
theorem abs_lt_overflowBound {x : F64} {v : ℚ} (h : f64Value x = some v) : |v| < overflowBound := by
  obtain ⟨neg, m, e, hx, rfl⟩ := f64Unpack_of_value h
  have hfrac := (x.extractLsb' 0 52).isLt
  obtain ⟨hm, he⟩ : m < 2 ^ 53 ∧ e ≤ 971 := by
    obtain ⟨-, h | h⟩ := f64Unpack_eq_fin_iff.mp hx <;> omega
  have hm' : (m : ℚ) < 2 ^ 53 - 1 / 2 := by
    have hsucc : (m : ℚ) + 1 ≤ 2 ^ 53 := by exact_mod_cast hm
    linarith
  rw [abs_mul, abs_mul, signFactor_abs, one_mul, Nat.abs_cast, abs_of_pos (zpow_pos two_pos e), overflowBound_eq]
  calc (m : ℚ) * 2 ^ e ≤ m * 2 ^ (971 : ℤ) :=
        mul_le_mul_of_nonneg_left (zpow_le_zpow_right₀ one_le_two he) m.cast_nonneg
    _ < (2 ^ 53 - 1 / 2) * 2 ^ (971 : ℤ) := mul_lt_mul_of_pos_right hm' (zpow_pos two_pos _)

/-- The pattern is finite and its value lies between `lo` and `hi`. -/
def Between (lo hi : ℚ) (x : F64) : Prop := ∃ v, f64Value x = some v ∧ lo ≤ v ∧ v ≤ hi

/-- Rounding to nearest does not pass a representable bound: the bound would be nearer. -/
theorem between_of_correctlyRounded {v lo hi : ℚ} {r : F64} (h : CorrectlyRounded v r) (hlo : Representable lo)
    (hhi : Representable hi) (hlov : lo ≤ v) (hvhi : v ≤ hi) : Between lo hi r := by
  obtain ⟨x, hx⟩ := hlo
  obtain ⟨y, hy⟩ := hhi
  have hfinite : |v| < overflowBound :=
    (abs_le_max_abs_abs hlov hvhi).trans_lt (max_lt (abs_lt_overflowBound hx) (abs_lt_overflowBound hy))
  obtain ⟨z, hz, hnear, -⟩ := h.finite hfinite
  refine ⟨z, hz, ?_, ?_⟩
  · by_contra hlt
    have hnearLo := hnear x lo hx
    rw [abs_of_neg (by linarith), abs_of_nonpos (by linarith)] at hnearLo
    linarith
  · by_contra hgt
    have hnearHi := hnear y hi hy
    rw [abs_of_pos (by linarith), abs_of_nonneg (by linarith)] at hnearHi
    linarith

/-- The pattern is finite and its magnitude is at most `b`. -/
def Bounded (b : ℚ) (x : F64) : Prop := ∃ v, f64Value x = some v ∧ |v| ≤ b

theorem bounded_of_correctlyRounded {v b : ℚ} {r : F64} (h : CorrectlyRounded v r) (hb : Representable b)
    (hv : |v| ≤ b) : Bounded b r := by
  obtain ⟨hlo, hhi⟩ := abs_le.mp hv
  obtain ⟨z, hz, hbetween⟩ := between_of_correctlyRounded h (representable_neg hb) hb hlo hhi
  exact ⟨z, hz, abs_le.mpr hbetween⟩

theorem bounded_f64OfInt {n : ℤ} {b : ℚ} (hn : |n| < 2 ^ 53) (hb : |(n : ℚ)| ≤ b) : Bounded b (f64OfInt n) :=
  ⟨n, f64Value_f64OfInt hn, hb⟩

/-- The binary64 of a signed word of the store (R24). -/
theorem bounded_f64OfInt_word (x : BitVec 16) : Bounded (2 ^ 15) (f64OfInt x.toInt) := by
  have hlo := x.le_toInt
  have hhi := x.toInt_lt
  have habs : |x.toInt| ≤ 2 ^ 15 := abs_le.mpr (by omega)
  exact bounded_f64OfInt (habs.trans_lt (by norm_num)) (by exact_mod_cast habs)

section Bounds

variable {a b d : ℚ} {x y : F64} {i j : ℕ}

theorem bounded_f64Mul (hx : Bounded a x) (hy : Bounded b y) (hd : Representable d) (h : a * b ≤ d) :
    Bounded d (f64Mul x y) := by
  obtain ⟨v, hv, hva⟩ := hx
  obtain ⟨w, hw, hwb⟩ := hy
  refine bounded_of_correctlyRounded (f64Mul_correct hv hw) hd ?_
  calc |v * w| = |v| * |w| := abs_mul v w
    _ ≤ a * b := mul_le_mul hva hwb (abs_nonneg w) ((abs_nonneg v).trans hva)
    _ ≤ d := h

theorem bounded_f64Add (hx : Bounded a x) (hy : Bounded b y) (hd : Representable d) (h : a + b ≤ d) :
    Bounded d (f64Add x y) := by
  obtain ⟨v, hv, hva⟩ := hx
  obtain ⟨w, hw, hwb⟩ := hy
  exact bounded_of_correctlyRounded (f64Add_correct hv hw) hd
    ((abs_add_le v w).trans ((add_le_add hva hwb).trans h))

theorem bounded_f64Neg (hx : Bounded a x) : Bounded a (f64Neg x) := by
  obtain ⟨v, hv, hva⟩ := hx
  exact ⟨-v, f64Value_f64Neg hv, by rwa [abs_neg]⟩

/-- A number times a zero is a zero, because the number is finite. -/
theorem f64Value_f64Mul_zero (hx : Bounded a x) (hy : f64Value y = some 0) : f64Value (f64Mul x y) = some 0 := by
  obtain ⟨v, hv, -⟩ := hx
  have hround := f64Mul_correct hv hy
  rw [mul_zero] at hround
  obtain ⟨z, hz, hz0⟩ := bounded_of_correctlyRounded hround ⟨y, hy⟩ abs_zero.le
  rwa [abs_nonpos_iff.mp hz0] at hz

/-! Bounds that are powers of two, in which the exponents are added up. -/

theorem bounded_two_pow_mul (hx : Bounded (2 ^ i) x) (hy : Bounded (2 ^ j) y) (h : i + j < 1024 := by norm_num) :
    Bounded (2 ^ (i + j)) (f64Mul x y) :=
  bounded_f64Mul hx hy (representable_two_pow h) (pow_add 2 i j).ge

theorem bounded_two_pow_add (hx : Bounded (2 ^ i) x) (hy : Bounded (2 ^ j) y)
    (h : max i j + 1 < 1024 := by norm_num) : Bounded (2 ^ (max i j + 1)) (f64Add x y) := by
  refine bounded_f64Add hx hy (representable_two_pow h) ?_
  have hi : (2 : ℚ) ^ i ≤ 2 ^ max i j := pow_le_pow_right₀ one_le_two (le_max_left i j)
  have hj : (2 : ℚ) ^ j ≤ 2 ^ max i j := pow_le_pow_right₀ one_le_two (le_max_right i j)
  rw [pow_succ]
  linarith

theorem bounded_two_pow_sub (hx : Bounded (2 ^ i) x) (hy : Bounded (2 ^ j) y)
    (h : max i j + 1 < 1024 := by norm_num) : Bounded (2 ^ (max i j + 1)) (f64Sub x y) :=
  bounded_two_pow_add hx (bounded_f64Neg hy) h

/-- A division by a positive integer makes no magnitude greater. -/
theorem bounded_two_pow_div_ofInt {n : ℤ} (hx : Bounded (2 ^ i) x) (hi : i < 1024 := by norm_num)
    (hpos : 0 < n := by norm_num) (hn : |n| < 2 ^ 53 := by norm_num) :
    Bounded (2 ^ i) (f64Div x (f64OfInt n)) := by
  obtain ⟨v, hv, hvi⟩ := hx
  have hne : (n : ℚ) ≠ 0 := by exact_mod_cast hpos.ne'
  have hone : 1 ≤ |(n : ℚ)| := by exact_mod_cast Int.one_le_abs hpos.ne'
  refine bounded_of_correctlyRounded (f64Div_correct hv (f64Value_f64OfInt hn) hne) (representable_two_pow hi) ?_
  calc |v / n| = |v| / |(n : ℚ)| := abs_div v n
    _ ≤ |v| := div_le_self (abs_nonneg v) hone
    _ ≤ 2 ^ i := hvi

end Bounds

/-! ### The range of strategy B's temperature sum (R179, R194 (a)) -/

theorem between_f64Div_ofNat {m : ℕ} {n : ℤ} {hi : ℚ} (hm : (m : ℤ) < 2 ^ 53) (hpos : 0 < n) (hn : n < 2 ^ 53)
    (hhi : Representable hi) (h : m / n ≤ hi) : Between 0 hi (f64Div (f64OfInt m) (f64OfInt n)) := by
  have habs : |(m : ℤ)| < 2 ^ 53 := (Nat.abs_cast m).trans_lt hm
  have hm' : f64Value (f64OfInt m) = some (m : ℚ) :=
    (f64Value_f64OfInt habs).trans (congrArg some (Int.cast_natCast m))
  have hn' := f64Value_f64OfInt (n := n) ((abs_of_pos hpos).trans_lt hn)
  have hnq : (0 : ℚ) < n := by exact_mod_cast hpos
  exact between_of_correctlyRounded (f64Div_correct hm' hn' hnq.ne') ⟨_, f64Value_zero false⟩ hhi (by positivity) h

/-- The two quotients of `var1`, and those of `var2`, lie between 0 and that of the greatest sample. -/
theorem bounded_sample_sub_word {n s : ℤ} (hn : n = 16 * s) (hs : 0 < s) (hs' : s ≤ 2 ^ 13)
    (hrep : Representable ((2 ^ 20 - 1) / n)) (adcT : BitVec 20) (t1 : BitVec 16) :
    Bounded ((2 ^ 20 - 1) / n) (f64Sub (f64Div (f64OfInt adcT.toNat) (f64OfInt n))
      (f64Div (f64OfInt t1.toNat) (f64OfInt s))) := by
  subst hn
  have hsq : (0 : ℚ) < s := by exact_mod_cast hs
  have hadc : (adcT.toNat : ℚ) + 1 ≤ 2 ^ 20 := by exact_mod_cast adcT.isLt
  have ht1 : (t1.toNat : ℚ) + 1 ≤ 2 ^ 16 := by exact_mod_cast t1.isLt
  have hsample : (adcT.toNat : ℚ) / (16 * s : ℤ) ≤ (2 ^ 20 - 1) / (16 * s : ℤ) := by
    push_cast
    gcongr
    linarith
  have hword : (t1.toNat : ℚ) / s ≤ (2 ^ 20 - 1) / (16 * s : ℤ) := by
    push_cast
    rw [← div_div, div_le_div_iff_of_pos_right hsq]
    linarith
  obtain ⟨v, hv, hv0, hvhi⟩ := between_f64Div_ofNat (by omega) (by omega) (by omega) hrep hsample
  obtain ⟨w, hw, hw0, hwhi⟩ := between_f64Div_ofNat (by omega) hs (by omega) hrep hword
  exact bounded_of_correctlyRounded (f64Sub_correct hv hw) hrep (abs_le.mpr (by constructor <;> linarith))

theorem representable_maxSample_div_16384 : Representable ((2 ^ 20 - 1) / (16384 : ℤ)) := by
  have h := f64Value_of_unpack (x := 0x404FFFFE00000000#64) (neg := false) (m := (2 ^ 20 - 1) * 2 ^ 33) (e := -47)
    (by decide)
  norm_num [signFactor] at h ⊢
  exact ⟨_, h⟩

theorem representable_maxSample_div_131072 : Representable ((2 ^ 20 - 1) / (131072 : ℤ)) := by
  have h := f64Value_of_unpack (x := 0x401FFFFE00000000#64) (neg := false) (m := (2 ^ 20 - 1) * 2 ^ 33) (e := -50)
    (by decide)
  norm_num [signFactor] at h ⊢
  exact ⟨_, h⟩

theorem bounded_tempFVar1 (c : Calib) (adcT : BitVec 20) : Bounded 2097150 (tempFVar1 c adcT) := by
  have hdiff := bounded_sample_sub_word (s := 1024) (by norm_num) (by norm_num) (by norm_num)
    representable_maxSample_div_16384 adcT c.digT1
  exact bounded_f64Mul hdiff (bounded_f64OfInt_word c.digT2)
    (representable_intCast (n := 2097150) (by norm_num)) (by norm_num)

/-- The square of the difference is at most (8 - 2^-17)^2, which is less than 64 - 2^-14. -/
theorem bounded_tempFVar2 (c : Calib) (adcT : BitVec 20) : Bounded 2097150 (tempFVar2 c adcT) := by
  have hdiff := bounded_sample_sub_word (s := 8192) (by norm_num) (by norm_num) (by norm_num)
    representable_maxSample_div_131072 adcT c.digT1
  have hsquare := bounded_f64Mul hdiff hdiff representable_maxSample_div_16384 (by norm_num)
  exact bounded_f64Mul hsquare (bounded_f64OfInt_word c.digT3)
    (representable_intCast (n := 2097150) (by norm_num)) (by norm_num)

theorem bounded_tempFSum (c : Calib) (adcT : BitVec 20) : Bounded 4194300 (tempFSum c adcT) :=
  bounded_f64Add (bounded_tempFVar1 c adcT) (bounded_tempFVar2 c adcT)
    (representable_intCast (n := 4194300) (by norm_num)) (by norm_num)

/-! ### A zero pressure denominator (R191) -/

theorem presA_of_denominator_zero {c : Calib} {tFine : BitVec 32} (h : presADenominator c tFine = 0)
    (adcP : BitVec 20) : presA c adcP tFine = 0 := if_pos h

theorem presC_of_denominator_zero {c : Calib} {tFine : BitVec 32} (h : presCDenominator c tFine = 0)
    (adcP : BitVec 20) : presC c adcP tFine = 0 := if_pos h

theorem presF_of_denominator_zero {c : Calib} {tFine : BitVec 32} (h : f64Value (presFDenominator c tFine) = some 0)
    (adcP : BitVec 20) : presF c adcP tFine = 0 := if_pos (f64IsZero_of_value h)

theorem presADenominator_of_digP1_zero {c : Calib} (h : c.digP1 = 0) (tFine : BitVec 32) :
    presADenominator c tFine = 0 := by
  simp [presADenominator, unsigned64, h]

theorem presCDenominator_of_digP1_zero {c : Calib} (h : c.digP1 = 0) (tFine : BitVec 32) :
    presCDenominator c tFine = 0 := by
  simp [presCDenominator, unsigned32, h]

theorem bounded_presFBase (tFine : BitVec 32) : Bounded (2 ^ 32) (presFBase tFine) := by
  have hlo := tFine.le_toInt
  have hhi := tFine.toInt_lt
  have habs : |tFine.toInt| ≤ 2 ^ 31 := abs_le.mpr (by omega)
  have htFine : Bounded (2 ^ 31) (f64OfInt tFine.toInt) :=
    bounded_f64OfInt (habs.trans_lt (by norm_num)) (by exact_mod_cast habs)
  have hoffset : Bounded (2 ^ 16) (f64OfInt 64000) := bounded_f64OfInt (by norm_num) (by norm_num)
  exact bounded_two_pow_sub (bounded_two_pow_div_ofInt (n := 2) htFine) hoffset

/-- The factor of `DIG_P1` in strategy B's denominator is finite for every `t_fine`, so that times 0 it is a zero and
no NaN (R180, R191). -/
theorem presFDenominator_of_digP1_zero {c : Calib} (h : c.digP1 = 0) (tFine : BitVec 32) :
    f64Value (presFDenominator c tFine) = some 0 := by
  have hbase := bounded_presFBase tFine
  have hquadratic := bounded_two_pow_div_ofInt (n := 524288)
    (bounded_two_pow_mul (bounded_two_pow_mul (bounded_f64OfInt_word c.digP3) hbase) hbase)
  have hlinear := bounded_two_pow_mul (bounded_f64OfInt_word c.digP2) hbase
  have hvar1 := bounded_two_pow_div_ofInt (n := 524288) (bounded_two_pow_add hquadratic hlinear)
  have hone : Bounded (2 ^ 0) (f64OfInt 1) := bounded_f64OfInt (by norm_num) (by norm_num)
  have hfactor := bounded_two_pow_add hone (bounded_two_pow_div_ofInt (n := 32768) hvar1)
  have hp1 : f64Value (calibF64 c .p1) = some 0 := by
    rw [calibF64_p1, h]
    exact f64Value_zero false
  exact f64Value_f64Mul_zero hfactor hp1

/-! ### The branch of strategy C (R178, R194 (c)) -/

/-- 3125 is odd, so only the boundary itself is scaled to the boundary. -/
theorem eq_boundary_of_scaled_eq_boundary {x : BitVec 32} (h : x * 3125 = 0x80000000#32) : x = 0x80000000#32 := by
  have hscaled : x.toNat * 3125 % 2 ^ 32 = 0x80000000 := congrArg BitVec.toNat h
  apply BitVec.eq_of_toNat_eq
  change x.toNat = 0x80000000
  omega

/-- A 20-bit sample and the 20 bits that `v2 >> 12` keeps leave the numerator far from the boundary. -/
theorem unscaledNumerator_ne_boundary (adcP : BitVec 20) (v2 : BitVec 32) :
    1048576 - adc32 adcP - v2.sshiftRight 12 ≠ 0x80000000#32 := by
  intro h
  have hdiff : sInt 32 (sInt 32 (1048576 - adcP.toNat) - v2.toInt / 2 ^ 12) = -2147483648 := by
    rw [← shr_eq_ediv, ← toInt_sshiftRight_eq_shr, ← adc32_toInt, ← show (1048576#32).toInt = 1048576 from rfl,
      ← toInt_sub_eq_sInt (by decide), ← toInt_sub_eq_sInt (by decide)]
    exact congrArg BitVec.toInt h
  have hlo := v2.le_toInt
  have hhi := v2.toInt_lt
  simp only [sInt] at hdiff
  omega

end Binary64

/-! ### The statements about the arithmetic -/

/-- Settles O51: the aligned sum is exact and rounded once, and a difference is the sum with the negated number. -/
theorem binarySumsAreCorrectlyRounded : Obligations.BinarySumsAreCorrectlyRounded :=
  fun _ _ _ _ hx hy => ⟨f64Add_correct hx hy, f64Sub_correct hx hy⟩

/-- Settles O52: the product and the quotient of the integers are exact fractions, rounded once. -/
theorem binaryProductsAndQuotientsAreCorrectlyRounded :
    Obligations.BinaryProductsAndQuotientsAreCorrectlyRounded :=
  fun _ _ _ _ hx hy => ⟨f64Mul_correct hx hy, f64Div_correct hx hy⟩

/-- Settles O53: an integer below 2^53 is exact, and the shifts of `truncFin` give the integer part. -/
theorem integerConversionsAreExact : Obligations.IntegerConversionsAreExact :=
  ⟨fun _ h => f64Value_f64OfInt h, fun _ _ hx hlo hhi => truncI32_toInt hx hlo hhi⟩

/-- Settles O59: an aligned sum of 0 takes the conjunction of the signs, and a product or quotient is rounded with the
sign it is given. -/
theorem binaryZerosAndSignsFollowIeee : Obligations.BinaryZerosAndSignsFollowIeee := by
  intro x y v w hx hy
  refine ⟨fun hsum => ?sum, fun hdiff => ?difference, getLsbD_63_f64Mul hx hy, getLsbD_63_f64Div hx hy⟩
  case sum => rw [f64Add_of_add_eq_zero hx hy hsum, f64Zero_and]
  case difference =>
    rw [f64Sub_of_sub_eq_zero hx hy hdiff, f64Zero_and]
    simp only [Bool.not_eq_true']

/-- Settles O54: rounding keeps the bounds of each operation, and the sum fits in `i32`. -/
theorem binaryTFineIsAlwaysInRange : Obligations.BinaryTFineIsAlwaysInRange := by
  intro c adcT
  obtain ⟨v1, hv1, hbound1⟩ := bounded_tempFVar1 c adcT
  obtain ⟨v2, hv2, hbound2⟩ := bounded_tempFVar2 c adcT
  obtain ⟨v, hv, hbound⟩ := bounded_tempFSum c adcT
  obtain ⟨hlo, hhi⟩ := abs_le.mp hbound
  exact ⟨v1, v2, v, hv1, by linarith, hv2, by linarith, hv, by linarith,
    truncI32_toInt hv (by linarith) (by linarith)⟩

/-- Settles O50: the numerator before its scaling would be the boundary itself, which is out of its range. -/
theorem strategyCBranchBoundaryIsUnreachable : Obligations.StrategyCBranchBoundaryIsUnreachable :=
  fun _ adcP _ h => unscaledNumerator_ne_boundary adcP _ (eq_boundary_of_scaled_eq_boundary h)

/-! ### The statements about the commands (R182–R191) -/

/-- Settles O44: COMP_T.B is ready, and its effect is the formula with the words of the store by name. -/
theorem binaryTemperatureFollowsTheFormula : Obligations.BinaryTemperatureFollowsTheFormula :=
  fun adcT s hphase => exec_of_ready (i := .compTB adcT) ((calReady_iff s).mpr hphase)

/-- Settles O45: COMP_P.B is ready, and the guard of its formula is true of the two zeros alone. -/
theorem binaryPressureFollowsTheFormula : Obligations.BinaryPressureFollowsTheFormula := by
  intro adcP s hphase hvalid
  refine (exec_of_ready (i := .compPB adcP) (pressureReady_of hphase hvalid)).trans (congrArg Host.Outcome.next ?_)
  change writePresF adcP s = _
  simp only [writePresF, presF, f64IsZero_iff]
  rfl

/-- Settles O43: the pressure stage runs on the state that the temperature stage leaves, and each stage is its
formula. -/
theorem combinedIntegerCompensationChainsTheFormulas :
    Obligations.CombinedIntegerCompensationChainsTheFormulas := by
  intro adcT adcP s hphase
  have hready : calReady s = true := (calReady_iff s).mpr hphase
  constructor
  · rw [exec_of_ready (i := .compTPA adcT adcP) hready, ← presA_eq_reference]
    exact congrArg (Host.Outcome.next ∘ writePresA adcP) (writeTempInt_eq_reference .a adcT s)
  · rw [exec_of_ready (i := .compTPC adcT adcP) hready, ← presC_eq_reference]
    exact congrArg (Host.Outcome.next ∘ writePresC adcP) (writeTempInt_eq_reference .c adcT s)

/-- Settles O46: COMP_T leaves a state in which COMP_P runs, and COMP_TP has the effects of both in that order. -/
theorem combinedBinaryCompensationIsTheTwoStages : Obligations.CombinedBinaryCompensationIsTheTwoStages := by
  intro adcT adcP s hphase
  have hready : calReady s = true := (calReady_iff s).mpr hphase
  refine ⟨⟨_, _, exec_of_ready (i := .compTB adcT) hready, ?pressureB,
      exec_of_ready (i := .compTPB adcT adcP) hready, rfl, rfl, rfl, rfl⟩,
    ⟨_, _, exec_of_ready (i := .compTA adcT) hready, ?pressureA,
      exec_of_ready (i := .compTPA adcT adcP) hready, rfl, rfl, rfl, rfl⟩,
    ⟨_, _, exec_of_ready (i := .compTC adcT) hready, ?pressureC,
      exec_of_ready (i := .compTPC adcT adcP) hready, rfl, rfl, rfl, rfl⟩⟩
  case pressureB => exact exec_of_ready (i := .compPB adcP) (pressureReady_of hphase rfl)
  case pressureA => exact exec_of_ready (i := .compPA adcP) (pressureReady_of hphase rfl)
  case pressureC => exact exec_of_ready (i := .compPC adcP) (pressureReady_of hphase rfl)

/-- Settles O47: each formula guards its division by a test of the denominator, and gives 0. -/
theorem zeroDenominatorGivesExactlyZero : Obligations.ZeroDenominatorGivesExactlyZero := by
  intro adcP s hphase hvalid
  have hready : pressureReady s = true := pressureReady_of hphase hvalid
  refine ⟨fun h => ?strategyA, fun h => ?strategyC, fun h => ?strategyB⟩
  case strategyA =>
    rw [exec_of_ready (i := .compPA adcP) hready,
      ← presA_of_denominator_zero ((presADenominator_eq_zero_iff _ _).mpr h) adcP]
    rfl
  case strategyC =>
    rw [exec_of_ready (i := .compPC adcP) hready,
      ← presC_of_denominator_zero ((presCDenominator_eq_zero_iff _ _).mpr h) adcP]
    rfl
  case strategyB =>
    rw [exec_of_ready (i := .compPB adcP) hready, ← presF_of_denominator_zero h adcP]
    rfl

/-- Settles O48: `DIG_P1` is a factor of every denominator, and the other factor of strategy B's is finite. -/
theorem zeroDigP1GivesZeroPressureInEveryStrategy : Obligations.ZeroDigP1GivesZeroPressureInEveryStrategy := by
  intro adcT adcP s hphase hp1
  have hready : calReady s = true := (calReady_iff s).mpr hphase
  refine ⟨⟨_, _, exec_of_ready (i := .compTA adcT) hready, exec_of_ready (i := .compTPA adcT adcP) hready,
      ?pressureA, rfl, rfl, rfl⟩,
    ⟨_, _, exec_of_ready (i := .compTB adcT) hready, exec_of_ready (i := .compTPB adcT adcP) hready,
      ?pressureB, rfl, rfl, rfl⟩,
    ⟨_, _, exec_of_ready (i := .compTC adcT) hready, exec_of_ready (i := .compTPC adcT adcP) hready,
      ?pressureC, rfl, rfl, rfl⟩⟩
  case pressureA =>
    exact congrArg Reg.of (presA_of_denominator_zero (presADenominator_of_digP1_zero hp1 _) adcP)
  case pressureB =>
    exact congrArg Reg.of (presF_of_denominator_zero (presFDenominator_of_digP1_zero hp1 _) adcP)
  case pressureC =>
    exact congrArg Reg.of (presC_of_denominator_zero (presCDenominator_of_digP1_zero hp1 _) adcP)

end Sys2Proof.Machine

/-! ## Proofs: faults (60_exceptions.md). Which words are illegal, what a faulting command leaves, and that a step
records one cause at most. -/

namespace Sys2Proof.Machine

/-! ### Which words are illegal (R222) -/

/-- `OPC` as the number that the tables of R98 and R99 are over. -/
theorem toNat_opcodeOf (w : CmdWord) : (opcodeOf w).toNat = w.toNat / 2 ^ 56 := by
  rw [opcodeOf, BitVec.extractLsb'_toNat, Nat.shiftRight_eq_div_pow, Nat.mod_eq_of_lt (by omega)]

/-- A command's opcode has the command's format (R99). -/
theorem formatOfOpcode_opcode (i : Instr) : Reference.formatOfOpcode i.opcode.toNat = some i.format := by
  cases i <;> rfl

/-- A command's opcode has the command's strategy (R98). -/
theorem strategyOfOpcode_opcode (i : Instr) : Reference.strategyOfOpcode i.opcode.toNat = i.strategy := by
  cases i <;> rfl

/-- An opcode of the map is that of some command (R99). -/
theorem exists_opcode_eq_of_formatOfOpcode (opc : BitVec 8) (h : Reference.formatOfOpcode opc.toNat ≠ none) :
    ∃ i ∈ oneOfEach, opc = i.opcode := by
  revert opc
  decide

/-- A word that names no command has no opcode of the map (R99). -/
theorem formatOfOpcode_of_candidate_none {w : CmdWord} (h : candidate w = none) :
    Reference.formatOfOpcode (opcodeOf w).toNat = none := by
  by_contra hformat
  obtain ⟨i, -, hopc⟩ := exists_opcode_eq_of_formatOfOpcode (opcodeOf w) hformat
  obtain ⟨j, hcand, -⟩ := candidate_of_opcodeOf_eq hopc
  simp [h] at hcand

/-- A command is missing from a build exactly when it selects a strategy that is not built in. -/
theorem wellFormed_eq_false_iff (p : StrategySet) (i : Instr) :
    i.wellFormed p = false ↔ ∃ st, i.strategy = some st ∧ p.has st = false := by
  cases h : i.strategy <;> simp [Instr.wellFormed, h]

/-- Reserved bits are set exactly when some bit at a reserved position is 1 (R100). -/
theorem and_reservedMask_ne_zero_iff (w : CmdWord) (f : Format) :
    w &&& reservedMask f ≠ 0#64 ↔ ∃ k, Reference.reservedPosition f k = true ∧ w.getLsbD k = true := by
  constructor
  · intro h
    by_contra! hclear
    refine h (BitVec.eq_of_getLsbD_eq fun k hk => ?_)
    cases hpos : Reference.reservedPosition f k <;> simp [reservedMask_getLsbD f k hk, hpos, hclear k]
  · rintro ⟨k, hpos, hbit⟩ hzero
    simp [getLsbD_eq_false_of_reserved hzero (BitVec.lt_of_getLsbD hbit) hpos] at hbit

/-- Decoding rejects a word that names a command exactly for its strategy or its reserved bits (R100). -/
theorem decode_error_iff_of_candidate {w : CmdWord} {i : Instr} (h : candidate w = some i) (p : StrategySet) :
    (∃ e, decode p w = .error e) ↔ i.wellFormed p = false ∨ w &&& reservedMask i.format ≠ 0#64 := by
  simp only [decode, h]
  split_ifs <;> simp_all

/-- R222 for a word that names a command: the command gives the opcode's format and strategy. -/
theorem illegalWord_iff_of_candidate {w : CmdWord} {i : Instr} (h : candidate w = some i) (p : StrategySet) :
    Reference.IllegalWord p w ↔ i.wellFormed p = false ∨ w &&& reservedMask i.format ≠ 0#64 := by
  rw [Reference.IllegalWord, ← toNat_opcodeOf, ← opcode_of_candidate h, formatOfOpcode_opcode,
    strategyOfOpcode_opcode, wellFormed_eq_false_iff, and_reservedMask_ne_zero_iff]
  simp

/-- Decoding rejects exactly the words of R222. -/
theorem decode_error_iff_illegalWord (p : StrategySet) (w : CmdWord) :
    (∃ e, decode p w = .error e) ↔ Reference.IllegalWord p w := by
  cases h : candidate w with
  | none =>
    have hformat := formatOfOpcode_of_candidate_none h
    rw [toNat_opcodeOf] at hformat
    exact iff_of_true ⟨.unknownOpcode, by simp [decode, h]⟩ (.inl hformat)
  | some i => exact (decode_error_iff_of_candidate h p).trans (illegalWord_iff_of_candidate h p).symm

/-! ### What a faulting command leaves (R224–R226) -/

/-- A word that decodes to no command raises ILLEGAL and does nothing else (R222, R224). -/
theorem runWord_of_decode_error {s : State} {w : CmdWord} {e : Reject} (hd : decode s.strategies w = .error e) :
    runWord w s = .next (Reference.faulted 0b10 w s) := by
  rw [runWord, hd]
  rfl

/-- Settles O7, by the step on a command word and the run of a word that is rejected. -/
theorem illegalWordIsRecordedBeforeAnyPrecondition : Obligations.IllegalWordIsRecordedBeforeAnyPrecondition := by
  intro s w rest e hq hd
  rw [step_of_command hq]
  exact runWord_of_decode_error (s := setQueue rest s) hd

/-- Settles O4: decoding rejects exactly the words of R222, and a step on a rejected word is that of O7. -/
theorem illegalWordsMeetOneOfThreeConditions : Obligations.IllegalWordsMeetOneOfThreeConditions := by
  refine ⟨decode_error_iff_illegalWord, fun s w rest hq hillegal => ?_⟩
  obtain ⟨e, hd⟩ := (decode_error_iff_illegalWord s.strategies w).mpr hillegal
  exact illegalWordIsRecordedBeforeAnyPrecondition s w rest e hq hd

/-- No precondition looks at the host's moves to come (R221). -/
theorem precondition_setQueue (i : Instr) (moves : List HostMove) (s : State) :
    Reference.precondition i (setQueue moves s) ↔ Reference.precondition i s := by
  cases i <;> rfl

/-- Settles O8: a rejected word records ILLEGAL (O7), a failed precondition records PRECOND (O9), and the word of the
command that failed is the word that was issued (O2). -/
theorem faultingCommandChangesOnlyTheFaultRegisters : Obligations.FaultingCommandChangesOnlyTheFaultRegisters := by
  rintro s w rest hq (⟨e, hd⟩ | ⟨i, hd, hpre⟩)
  · exact ⟨0b10, .inr rfl, illegalWordIsRecordedBeforeAnyPrecondition s w rest e hq hd⟩
  · have hfailed : ¬ Reference.precondition i (setQueue rest s) := by rwa [precondition_setQueue]
    obtain ⟨-, hword⟩ := encodeOfDecodeIsIdentity s.strategies w i hd
    refine ⟨0b01, .inl rfl, ?_⟩
    calc step s
      _ = exec i (setQueue rest s) := stepExecutesTheDecodedCommand s w rest i hq hd
      _ = .next (Reference.faulted 0b01 (encode i) (setQueue rest s)) := failedPreconditionRecordsPrecond i _ hfailed
      _ = .next (Reference.faulted 0b01 w (setQueue rest s)) := by rw [hword]

/-- Settles O10: a command whose row of R221 is true has its effect, and no effect writes `FAULT` or `FAULT_CMD`. -/
theorem metPreconditionRunsWithoutFault : Obligations.MetPreconditionRunsWithoutFault := by
  intro i s hpre
  exact ⟨_, exec_of_ready ((execReady_iff_precondition i s).mpr hpre), execEffect_fault i s, execEffect_faultCmd i s⟩

/-! ### At most one cause in a step (R226) -/

/-- From `s` to `t`, `FAULT` stays, or exactly one cause is recorded in it. -/
def AtMostOneCause (s t : State) : Prop :=
  t.fault = s.fault ∨ t.fault = s.fault ||| 0b01 ∨ t.fault = s.fault ||| 0b10

theorem atMostOneCause_raiseFault (c : FaultCause) (w : CmdWord) (s : State) : AtMostOneCause s (raiseFault c w s) := by
  cases c with
  | precond => exact .inr (.inl rfl)
  | illegal => exact .inr (.inr rfl)

theorem exec_atMostOneCause {i : Instr} {s t : State} (h : exec i s = .next t) : AtMostOneCause s t :=
  exec_keeps h (atMostOneCause_raiseFault · · s) fun _ => .inl (execEffect_fault i s)

/-- Settles O12: a step waits, executes one command, or records ILLEGAL, and none of these records two causes. -/
theorem oneStepRecordsAtMostOneCause : Obligations.OneStepRecordsAtMostOneCause := by
  intro s hpower
  obtain ⟨t, ht⟩ := step_eq_next s
  have hcause : AtMostOneCause s t := by
    obtain ⟨-, rfl⟩ | ⟨rest, hq, -⟩ | ⟨w, rest, i, -, -, hexec⟩ | ⟨w, rest, e, -, -, rfl⟩ := step_cases ht
    · exact .inl rfl
    · exact absurd hq (hpower rest)
    · exact (exec_atMostOneCause hexec :)
    · exact atMostOneCause_raiseFault .illegal w (setQueue rest s)
  exact ⟨t, ht, hcause⟩

/-- Settles O14: no move is taken off an empty queue (log entry 1). -/
theorem blockWaitsForTheNextWord : Obligations.BlockWaitsForTheNextWord := by
  intro s hq
  simp [step, nextMove, hq]

end Sys2Proof.Machine

/-! ## Proofs: the end of a run (70_reset_and_hazards.md). No step looks past the host's next move, so a run is decided
word by word. -/

namespace Sys2Proof.Machine

open Sys2Proof.Safety

/-! ### A step looks at the host's next move alone (R74, R81) -/

/-- No precondition that a command checks looks at the host's moves to come. -/
theorem execReady_setQueue (i : Instr) (moves : List HostMove) (s : State) :
    execReady i (setQueue moves s) = execReady i s := by
  cases i <;> rfl

/-- No effect of a command looks at the host's moves to come. -/
theorem execEffect_setQueue (i : Instr) (moves : List HostMove) (s : State) :
    execEffect i (setQueue moves s) = setQueue moves (execEffect i s) := by
  cases i <;> rfl

/-- A command answers the same state whatever moves are to come, but for those moves. -/
theorem exec_setQueue {i : Instr} {s t : State} (h : exec i s = .next t) (moves : List HostMove) :
    exec i (setQueue moves s) = .next (setQueue moves t) := by
  rw [exec_eq_next, execReady_setQueue]
  obtain ⟨hready, rfl⟩ | ⟨hready, rfl⟩ := exec_cases h
  · rw [if_pos hready, execEffect_setQueue]
  · rw [if_neg (by simp [hready])]
    rfl

/-- Other moves behind the next one change nothing of a step's answer but the moves it leaves. -/
theorem step_setQueue_cons {s t : State} {m : HostMove} {rest : List HostMove} (hq : s.hostQueue = m :: rest)
    (h : step s = .next t) (more : List HostMove) : step (setQueue (m :: more) s) = .next (setQueue more t) := by
  obtain ⟨hnil, -⟩ | ⟨rest', hq', rfl⟩ | ⟨w, rest', i, hq', hd, hexec⟩ | ⟨w, rest', e, hq', hd, rfl⟩ := step_cases h
  · simp [hq] at hnil
  · obtain ⟨rfl, rfl⟩ : m = .powerOn ∧ rest = rest' := by simpa [hq] using hq'
    rfl
  · obtain ⟨rfl, rfl⟩ : m = .command w ∧ rest = rest' := by simpa [hq] using hq'
    calc step (setQueue (.command w :: more) s)
      _ = runWord w (setQueue more s) := step_of_command (setQueue_hostQueue _ s)
      _ = exec i (setQueue more s) := runWord_of_decode hd
      _ = .next (setQueue more t) := exec_setQueue hexec more
  · obtain ⟨rfl, rfl⟩ : m = .command w ∧ rest = rest' := by simpa [hq] using hq'
    calc step (setQueue (.command w :: more) s)
      _ = runWord w (setQueue more s) := step_of_command (setQueue_hostQueue _ s)
      _ = .next (Reference.faulted 0b10 w (setQueue more s)) := runWord_of_decode_error hd

/-! ### Runs of the block (R264) -/

/-- The block runs `k` steps: `Host.Core.run` in the block's own types. -/
def runSteps (k : ℕ) (s : State) : Host.Outcome State Fault Refusal := Host.Core.run core k s

theorem runSteps_succ_of_step {s s' : State} (h : step s = .next s') (k : ℕ) :
    runSteps (k + 1) s = runSteps k s' := by
  simp only [runSteps, Host.Core.run, core, h]

/-- A run that is one step longer ends with that step. -/
theorem runSteps_succ_of_runSteps {k : ℕ} {s t : State} (h : runSteps k s = .next t) :
    runSteps (k + 1) s = step t := by
  induction k generalizing s with
  | zero =>
    obtain rfl : s = t := Host.Outcome.next.inj h
    obtain ⟨u, hu⟩ := step_eq_next s
    rw [runSteps_succ_of_step hu, hu]
    rfl
  | succ k ih =>
    obtain ⟨u, hu⟩ := step_eq_next s
    rw [runSteps_succ_of_step hu] at h ⊢
    exact ih h

/-- As many steps as the host has moves take all of them, and keep the build (R6). -/
theorem runSteps_hostQueue {s : State} {moves : List HostMove} (hq : s.hostQueue = moves) :
    ∃ t, runSteps moves.length s = .next t ∧ t.hostQueue = [] ∧ t.strategies = s.strategies := by
  induction moves generalizing s with
  | nil => exact ⟨s, rfl, hq, rfl⟩
  | cons m rest ih =>
    obtain ⟨u, -, hu, hbuild, htail, -⟩ := stepTakesItsInputsInOrder s
    obtain ⟨t, ht, hempty, hkept⟩ := ih (s := u) (by rw [htail, hq, List.tail_cons])
    exact ⟨t, (runSteps_succ_of_step hu _).trans ht, hempty, hkept.trans hbuild⟩

/-- Moves behind those that a run takes are left at its end, and change nothing else of it. -/
theorem runSteps_setQueue_append {s t : State} {moves : List HostMove} (hq : s.hostQueue = moves)
    (h : runSteps moves.length s = .next t) (more : List HostMove) :
    runSteps moves.length (setQueue (moves ++ more) s) = .next (setQueue more t) := by
  induction moves generalizing s with
  | nil =>
    obtain rfl : s = t := Host.Outcome.next.inj h
    rfl
  | cons m rest ih =>
    obtain ⟨u, -, hu, -, htail, -⟩ := stepTakesItsInputsInOrder s
    rw [List.length_cons, runSteps_succ_of_step hu] at h
    rw [List.length_cons, List.cons_append, runSteps_succ_of_step (step_setQueue_cons hq hu (rest ++ more))]
    exact ih (by rw [htail, hq, List.tail_cons]) h

/-- The run of a launch takes one step for each move that the launch puts on the queue. -/
theorem runWords_eq_runSteps (s0 : State) (ws : List CmdWord) (oracle : List Byte) :
    runWords s0 ws oracle = runSteps (ws.map HostMove.command).length (launch s0 ws oracle) := by
  rw [List.length_map]
  rfl

/-- A launch with one word more has that word behind the others. -/
theorem launch_append (s0 : State) (ws : List CmdWord) (w : CmdWord) (oracle : List Byte) :
    launch s0 (ws ++ [w]) oracle = setQueue (ws.map .command ++ [.command w]) (launch s0 ws oracle) := by
  simp [launch, setQueue]

/-- Settles O20: the run takes a step for each word (`runSteps_hostQueue`); with one word more it passes the same
states, that word behind the others (`runSteps_setQueue_append`), and ends with the step on it. -/
theorem runOfWordsEndsAfterItsLastWord : Obligations.RunOfWordsEndsAfterItsLastWord := by
  intro s0 ws oracle
  have hq : (launch s0 ws oracle).hostQueue = ws.map .command := rfl
  obtain ⟨t, ht, hempty, hbuild⟩ := runSteps_hostQueue hq
  refine ⟨t, (runWords_eq_runSteps s0 ws oracle).trans ht, hempty, hbuild, fun w => ?_⟩
  rw [runWords_eq_runSteps, launch_append, List.map_append, List.length_append]
  exact runSteps_succ_of_runSteps (runSteps_setQueue_append hq ht [.command w])

end Sys2Proof.Machine

/-! ## Proofs: noninterference (10_state.md, log entry 2). What the model stores in a register that holds no value
reaches nothing that a step leaves: every command reads the same inputs, and the calibration store and `T_FINE` only
where they hold a value. -/

namespace Sys2Proof.Machine

open Sys2Proof.Safety

/-! ### Registers and states that no host read tells apart (R42) -/

theorem sameSeen_refl {α : Type} (r : Reg α) : sameSeen r r := ⟨rfl, fun _ => rfl⟩

/-- Writing equal values leaves two registers that look the same. -/
theorem sameSeen_of {α : Type} {v v' : α} (h : v = v') : sameSeen (.of v) (.of v') := ⟨rfl, fun _ => h⟩

/-- Where two registers look the same and hold a value, it is the same value. -/
theorem value_eq_of_sameSeen {α : Type} {r r' : Reg α} (h : sameSeen r r') (hheld : r.hasValue = true) :
    r.value = r'.value := h.2 hheld

theorem sameBlock_refl (s : State) : SameBlock s s := by
  constructor <;> simp [sameSeen_refl]

section TwoStates

variable {s s' : State} (h : SameBlock s s')
include h

theorem sameBlock_setQueue (moves : List HostMove) : SameBlock (setQueue moves s) (setQueue moves s') :=
  { h with hostQueue := rfl }

/-- The power-on reset keeps only the build and the inputs still to come (R250). -/
theorem sameBlock_powerOnReset : SameBlock (powerOnReset s) (powerOnReset s') :=
  { sameBlock_refl State.reset with
    strategies := h.strategies
    hostQueue := h.hostQueue
    answers := h.answers
    draws := h.draws }

/-- Both states record the word, or both keep the one recorded before (R224). -/
theorem sameBlock_raiseFault (c : FaultCause) (w : CmdWord) : SameBlock (raiseFault c w s) (raiseFault c w s') :=
  { h with
    fault := congrArg (· ||| faultBit c) h.fault
    faultCmd := by
      rw [raiseFault_faultCmd, raiseFault_faultCmd, ← h.fault]
      split
      · exact sameSeen_refl _
      · exact h.faultCmd }

/-! ### What a command reads: flags, the phase and the sensor's answers, which are the same in both states -/

theorem execReady_eq_of_sameBlock (i : Instr) : execReady i s = execReady i s' := by
  cases i <;> simp [execReady, canLoadCalib, calReady, rawReady, pressureReady, h.phase, h.resetSeen, h.tFineValid]

theorem answerByte_eq_of_sameBlock : answerByte s = answerByte s' := by
  funext k
  simp [answerByte, h.answers, h.draws]

theorem sameBlock_busRead (addr : Byte) (n : Nat) : SameBlock (busRead addr n s) (busRead addr n s') :=
  { h with
    busTrace := by simp [answerBytes, h.busTrace, answerByte_eq_of_sameBlock h]
    answers := congrArg (List.drop n) h.answers
    draws := congrArg (· + n) h.draws }

theorem sameBlock_busWrite (addr v : Byte) : SameBlock (busWrite addr v s) (busWrite addr v s') :=
  { h with busTrace := congrArg (· ++ [BusEvent.write addr v]) h.busTrace }

/-! ### Commands that read no register but flags and the phase -/

theorem sameBlock_reset : SameBlock (execEffect .reset s) (execEffect .reset s') :=
  { sameBlock_busWrite h addrReset resetCode with
    phase := rfl
    resetSeen := rfl
    tFineValid := rfl
    tFineSrc := rfl }

theorem sameBlock_loadCalibration : SameBlock (loadCalibration s) (loadCalibration s') :=
  { sameBlock_busRead h addrCalib 24 with
    cal := sameSeen_of (congrArg calibOfBytes (answerByte_eq_of_sameBlock h))
    phase := rfl
    resetSeen := rfl
    tFineValid := rfl
    tFineSrc := rfl }

theorem sameBlock_writeEncoded (f : ConfigFields) : SameBlock (writeEncoded f s) (writeEncoded f s') :=
  { h with
    encConfig := sameSeen_refl _
    encCtrlMeas := sameSeen_refl _ }

theorem sameBlock_applyConfiguration (f : ConfigFields) :
    SameBlock (applyConfiguration f s) (applyConfiguration f s') :=
  { sameBlock_busWrite (sameBlock_busWrite (sameBlock_writeEncoded h f) addrConfig (packConfig f))
      addrCtrlMeas (packCtrlMeas f) with
    shadow := sameSeen_refl _
    phase := congrArg phaseAfterApply h.phase }

theorem sameBlock_writeStatusFlags (sb : Byte) : SameBlock (writeStatusFlags sb s) (writeStatusFlags sb s') :=
  { h with
    statMeasuring := sameSeen_refl _
    statImUpdate := sameSeen_refl _ }

theorem sameBlock_readStatus : SameBlock (execEffect .readStatus s) (execEffect .readStatus s') :=
  have hbyte := congrFun (answerByte_eq_of_sameBlock h) 0
  { sameBlock_busRead h addrStatus 1 with
    statusByte := sameSeen_of hbyte
    statMeasuring := sameSeen_of (congrArg statusMeasuring hbyte)
    statImUpdate := sameSeen_of (congrArg statusImUpdate hbyte) }

theorem sameBlock_readRawSample : SameBlock (readRawSample s) (readRawSample s') :=
  { sameBlock_busRead h addrRaw 6 with
    rawP := sameSeen_of (by rw [answerByte_eq_of_sameBlock h])
    rawT := sameSeen_of (by rw [answerByte_eq_of_sameBlock h])
    phase := congrArg phaseAfterRaw h.phase }

theorem sameBlock_readChipId : SameBlock (execEffect .readChipId s) (execEffect .readChipId s') :=
  { sameBlock_busRead h addrChipId 1 with
    chipId := sameSeen_of (congrFun (answerByte_eq_of_sameBlock h) 0) }

theorem sameBlock_decodeConfig (cfg ctrl : Byte) :
    SameBlock (execEffect (.decodeConfig cfg ctrl) s) (execEffect (.decodeConfig cfg ctrl) s') :=
  { h with decFields := sameSeen_refl _ }

/-! ### Compensation: the calibration store and `T_FINE` are read where they hold a value -/

theorem sameBlock_writeTempInt (hcal : s.cal.hasValue = true) (st : Strategy) (adcT : BitVec 20) :
    SameBlock (writeTempInt st adcT s) (writeTempInt st adcT s') :=
  have hstore := value_eq_of_sameSeen h.cal hcal
  { h with
    tFine := sameSeen_of (by rw [hstore])
    tFineValid := rfl
    tFineSrc := rfl
    outTI32 := sameSeen_of (by rw [hstore])
    outTSrc := rfl }

theorem sameBlock_writeTempF (hcal : s.cal.hasValue = true) (adcT : BitVec 20) :
    SameBlock (writeTempF adcT s) (writeTempF adcT s') :=
  have hstore := value_eq_of_sameSeen h.cal hcal
  { h with
    tFine := sameSeen_of (by rw [hstore])
    tFineValid := rfl
    tFineSrc := rfl
    outTF64 := sameSeen_of (by rw [hstore])
    outTSrc := rfl }

theorem sameBlock_writePresA (hcal : s.cal.hasValue = true) (hfine : s.tFine.hasValue = true) (adcP : BitVec 20) :
    SameBlock (writePresA adcP s) (writePresA adcP s') :=
  { h with
    outPU32 := sameSeen_of (by rw [value_eq_of_sameSeen h.cal hcal, value_eq_of_sameSeen h.tFine hfine])
    outPSrc := rfl }

theorem sameBlock_writePresF (hcal : s.cal.hasValue = true) (hfine : s.tFine.hasValue = true) (adcP : BitVec 20) :
    SameBlock (writePresF adcP s) (writePresF adcP s') :=
  { h with
    outPF64 := sameSeen_of (by rw [value_eq_of_sameSeen h.cal hcal, value_eq_of_sameSeen h.tFine hfine])
    outPSrc := rfl }

theorem sameBlock_writePresC (hcal : s.cal.hasValue = true) (hfine : s.tFine.hasValue = true) (adcP : BitVec 20) :
    SameBlock (writePresC adcP s) (writePresC adcP s') :=
  { h with
    outPU32 := sameSeen_of (by rw [value_eq_of_sameSeen h.cal hcal, value_eq_of_sameSeen h.tFine hfine])
    outPSrc := rfl }

end TwoStates

/-! ### Every command and every step -/

/-- COMP_P checks for the store and `T_FINE` that it reads (R25, R33, R221). -/
theorem held_of_pressureReady {s : State} (hc : RegistersConsistent s) (hready : pressureReady s = true) :
    s.cal.hasValue = true ∧ s.tFine.hasValue = true := by
  obtain ⟨-, hvalid⟩ := (pressureReady_iff s).mp hready
  obtain ⟨hfine, hcalReady⟩ := hc.tFineHeld hvalid
  exact ⟨hc.calHeld hcalReady, hfine⟩

/-- A command that runs reads a register only where it holds a value: what a command checks makes sure of it. -/
theorem sameBlock_execEffect {i : Instr} {s s' : State} (hc : RegistersConsistent s) (h : SameBlock s s')
    (hready : execReady i s = true) : SameBlock (execEffect i s) (execEffect i s') := by
  cases i with
  | reset => exact sameBlock_reset h
  | loadCalib => exact sameBlock_loadCalibration h
  | applyConfig f => exact sameBlock_applyConfiguration h f
  | readStatus => exact sameBlock_readStatus h
  | readRaw => exact sameBlock_readRawSample h
  | readChipId => exact sameBlock_readChipId h
  | encodeConfig f => exact sameBlock_writeEncoded h f
  | decodeConfig cfg ctrl => exact sameBlock_decodeConfig h cfg ctrl
  | decodeStatus sb => exact sameBlock_writeStatusFlags h sb
  | compTA adcT => exact sameBlock_writeTempInt h (hc.calHeld hready) .a adcT
  | compTB adcT => exact sameBlock_writeTempF h (hc.calHeld hready) adcT
  | compTC adcT => exact sameBlock_writeTempInt h (hc.calHeld hready) .c adcT
  | compPA adcP =>
    obtain ⟨hcal, hfine⟩ := held_of_pressureReady hc hready
    exact sameBlock_writePresA h hcal hfine adcP
  | compPB adcP =>
    obtain ⟨hcal, hfine⟩ := held_of_pressureReady hc hready
    exact sameBlock_writePresF h hcal hfine adcP
  | compPC adcP =>
    obtain ⟨hcal, hfine⟩ := held_of_pressureReady hc hready
    exact sameBlock_writePresC h hcal hfine adcP
  | compTPA adcT adcP =>
    have hcal := hc.calHeld hready
    exact sameBlock_writePresA (sameBlock_writeTempInt h hcal .a adcT) hcal rfl adcP
  | compTPB adcT adcP =>
    have hcal := hc.calHeld hready
    exact sameBlock_writePresF (sameBlock_writeTempF h hcal adcT) hcal rfl adcP
  | compTPC adcT adcP =>
    have hcal := hc.calHeld hready
    exact sameBlock_writePresC (sameBlock_writeTempInt h hcal .c adcT) hcal rfl adcP

/-- Both outcomes are next states, and no host read tells these apart. -/
def SameNext (o o' : Host.Outcome State Fault Refusal) : Prop :=
  ∃ t t', o = .next t ∧ o' = .next t' ∧ SameBlock t t'

/-- A command runs in both states or faults in both. -/
theorem sameNext_exec {s s' : State} (hc : RegistersConsistent s) (h : SameBlock s s') (i : Instr) :
    SameNext (exec i s) (exec i s') := by
  refine ⟨_, _, exec_eq_next i s, exec_eq_next i s', ?_⟩
  rw [← execReady_eq_of_sameBlock h]
  split
  · exact sameBlock_execEffect hc h ‹_›
  · exact sameBlock_raiseFault h .precond (encode i)

/-- A word decodes alike in both states, whose build is the same (R6, R100). -/
theorem sameNext_runWord {s s' : State} (hc : RegistersConsistent s) (h : SameBlock s s') (w : CmdWord) :
    SameNext (runWord w s) (runWord w s') := by
  unfold runWord
  rw [← h.strategies]
  split
  · exact sameNext_exec hc h _
  · exact ⟨_, _, rfl, rfl, sameBlock_raiseFault h .illegal w⟩

/-- With the power-on reset as the next move, a step is that reset (R250). -/
theorem step_of_powerOn {s : State} {rest : List HostMove} (hq : s.hostQueue = .powerOn :: rest) :
    step s = .next (powerOnReset (setQueue rest s)) := by
  simp [step, nextMove, hq]

/-- Settles O18, by the host's next move, which is the same in both states: the block waits, is reset, or runs a word
(`sameNext_runWord`). -/
theorem registersWithoutValueAreNeverRead : Obligations.RegistersWithoutValueAreNeverRead := by
  intro s s' hc h
  have hq' : s'.hostQueue = s.hostQueue := h.hostQueue.symm
  cases hq : s.hostQueue with
  | nil => exact ⟨s, s', blockWaitsForTheNextWord s hq, blockWaitsForTheNextWord s' (hq'.trans hq), h⟩
  | cons m rest =>
    have hrest : SameBlock (setQueue rest s) (setQueue rest s') := sameBlock_setQueue h rest
    cases m with
    | powerOn =>
      exact ⟨_, _, step_of_powerOn hq, step_of_powerOn (hq'.trans hq), sameBlock_powerOnReset hrest⟩
    | command w =>
      rw [step_of_command hq, step_of_command (hq'.trans hq)]
      exact sameNext_runWord (registersConsistent_setQueue hc rest) hrest w

end Sys2Proof.Machine
